-- ==== Sys2Proof/Word.lean ====
section
/-! DEFINITION. The bit-vector widths of HFO-CORE128 and the spec's named constants.
Rules R8 (parameters), R9 (bit numbering: bit 0 is the least significant) and R17 (constants) of
spec/00_scope.md. -/

namespace Sys2Proof

/-- A wide integer: the width of OPA, OPB, Y and Z (R8 WIDE, R50). -/
abbrev Word128 := BitVec 128

/-- A limb, half of a wide integer; also the raw of an FInt (R8 LIMB, FXW64). -/
abbrev Word64 := BitVec 64

/-- A digit, a quarter of a wide integer; also a host bus word and a command word (R8 DIGIT, BUSW). -/
abbrev Word32 := BitVec 32

/-- One byte of the register window (R102). -/
abbrev Byte := BitVec 8

/-- `MIN128`, the signed minimum of 128 bits (R17). -/
def MIN128 : Word128 := 0x8000_0000_0000_0000_0000_0000_0000_0000#128

/-- `ONES128`, all ones (R17). -/
def ONES128 : Word128 := 0xFFFF_FFFF_FFFF_FFFF_FFFF_FFFF_FFFF_FFFF#128

/-- `MIN64`, the signed minimum of 64 bits (R17). -/
def MIN64 : Word64 := 0x8000_0000_0000_0000#64

end Sys2Proof
end

