-- ==== Sys2Proof/Config.lean ====
section
/-! DEFINITION. What an implementation or its platform fixes (rule R8 of spec/00_scope.md), and the one
value the spec leaves free (U9 of spec/93_implementation_defined.md). The open ones are opaque: nothing
in Lean can evaluate them, so every statement holds for each of their values.
The parameter LAT of R8 is not here: R666 says that no rule depends on it and that a model need not
represent time (notes/assumptions/9.md). -/

namespace Sys2Proof

/-- Which 256-byte block of the host's address space the platform gives the unit. OPEN (R8 BASE, D29). -/
opaque Config.baseBlock : Nat

/-- BASE, the window's base address: a model argument, a multiple of 256 (R8, R100). -/
def Config.base : Nat := 256 * Config.baseBlock

/-- WINDOW, the size of the register window in bytes (R8, R100). -/
def Config.windowSize : Nat := 256

/-- FRAC, the fraction bits of FInt and FBig: the scale factor is 2^12 = 4096 (R8). -/
def Config.frac : Nat := 12

/-- The data lines of a refused read: "any value" (U9, R110). The n-th refused read of a run shows the
n-th of these values; nothing constrains any of them. DESIGN CHOICE, notes/assumptions/5.md. -/
opaque Config.refusedReadData : Nat → Word64

end Sys2Proof
end

