-- ==== Sys2Proof/Syntax.lean ====
section
/-! DEFINITION. The 39 commands of HFO-CORE128, one constructor per row of spec/opcode_table.json
(rule R154 of spec/30_encoding.md). No command word carries an operand or an immediate (R152, R153):
every command reads OPA and OPB, so no constructor has an argument. -/

namespace Sys2Proof

/-- A command (R154). The comments give the opcode and the rule of its meaning. -/
inductive Instr where
  | nop          -- 0x00, R200
  | add          -- 0x01, R201
  | sub          -- 0x02, R202
  | eq           -- 0x08, R450
  | ne           -- 0x09, R451
  | ltu          -- 0x0A, R452
  | leu          -- 0x0B, R453
  | gtu          -- 0x0C, R454
  | geu          -- 0x0D, R455
  | and          -- 0x10, R400
  | or           -- 0x11, R401
  | xor          -- 0x12, R402
  | not          -- 0x13, R403
  | sll          -- 0x14, R405
  | srl          -- 0x15, R406
  | sra          -- 0x16, R407
  | zext64       -- 0x18, R456
  | mul          -- 0x20, R250
  | mul64        -- 0x21, R251
  | divu         -- 0x30, R300
  | remu         -- 0x31, R301
  | divs         -- 0x32, R510
  | rems         -- 0x33, R511
  | neg          -- 0x40, R501
  | sext64       -- 0x41, R502
  | lts          -- 0x44, R504
  | les          -- 0x45, R505
  | gts          -- 0x46, R506
  | ges          -- 0x47, R507
  | fxadd64      -- 0x60, R551
  | fxsub64      -- 0x61, R552
  | fxmul64      -- 0x62, R553
  | fxdiv64      -- 0x63, R554
  | fxmod64      -- 0x64, R555
  | fxneg64      -- 0x65, R556
  | fxfromint64  -- 0x66, R557
  | fxmul128     -- 0x72, R560
  | fxdiv128     -- 0x73, R561
  | fxfromint128 -- 0x76, R562
  deriving DecidableEq, Repr

end Sys2Proof
end

