-- ==== Sys2Proof/WellFormed.lean ====
section
/-! DEFINITION. Well-formedness of commands and of command words, written from R151 and R155 of
spec/30_encoding.md. A command has no operand field (R150, R152), so every term of `Instr` is well
formed; what can be ill formed is a command word, by its reserved bits or by its opcode. The opcode check
is written from R155's list of the illegal opcodes, not from R154's list of the legal ones, so that
the decoder (written from R154) is checked against it. -/

namespace Sys2Proof

/-- No field of a command can be out of range: there is none (R150, R152, R153). -/
def Instr.wellFormed (_ : Instr) : Bool := true

/-- R155's ranges of illegal opcodes, first and last of each. -/
def illegalOpcodeRanges : List (Nat × Nat) :=
  [(0x03, 0x07), (0x0E, 0x0F), (0x17, 0x17), (0x19, 0x1F), (0x22, 0x2F), (0x34, 0x3F),
   (0x42, 0x43), (0x48, 0x5F), (0x67, 0x71), (0x74, 0x75), (0x77, 0xFF)]

/-- The reserved bits 31:8 of a command word are 0 (R150 RSV, R151). -/
def reservedClear (w : Word32) : Bool := w.toNat / 256 == 0

/-- Bits 7:0 of a command word are in none of R155's illegal ranges. -/
def opcodeListed (w : Word32) : Bool :=
  illegalOpcodeRanges.all fun r => !(r.1 ≤ w.toNat % 256 && w.toNat % 256 ≤ r.2)

/-- A legal command word: both checks of R151. -/
def legalWord (w : Word32) : Bool := reservedClear w && opcodeListed w

end Sys2Proof
end

