-- ==== Sys2Proof/Decode.lean ====
section
/-! DEFINITION. Decoding a command word and encoding a command (spec/30_encoding.md). A command word is
one 32-bit bus datum whose bit 0 is the least significant bit of the value written to CMD (R103, R150);
there is no instruction byte order to settle. Decoding depends on nothing but the word (R151). -/

namespace Sys2Proof

/-- Why a word is no command. Both raise IllegalOperation (R155, R602). -/
inductive DecodeError where
  /-- A bit of 31:8 is set (R150 RSV). -/
  | reservedBits
  /-- Bits 31:8 are 0 and bits 7:0 are not in the opcode map (R154). -/
  | unlistedOpcode
  deriving DecidableEq, Repr

/-- OPC, bits 7:0 (R150). -/
def opcField (w : Word32) : BitVec 8 := w.extractLsb' 0 8

/-- RSV, bits 31:8 (R150). -/
def rsvField (w : Word32) : BitVec 24 := w.extractLsb' 8 24

/-- The opcode map of R154. -/
def opcodeMap : List (BitVec 8 × Instr) :=
  [(0x00#8, .nop), (0x01#8, .add), (0x02#8, .sub),
   (0x08#8, .eq), (0x09#8, .ne), (0x0A#8, .ltu),
   (0x0B#8, .leu), (0x0C#8, .gtu), (0x0D#8, .geu),
   (0x10#8, .and), (0x11#8, .or), (0x12#8, .xor),
   (0x13#8, .not), (0x14#8, .sll), (0x15#8, .srl),
   (0x16#8, .sra), (0x18#8, .zext64), (0x20#8, .mul),
   (0x21#8, .mul64), (0x30#8, .divu), (0x31#8, .remu),
   (0x32#8, .divs), (0x33#8, .rems), (0x40#8, .neg),
   (0x41#8, .sext64), (0x44#8, .lts), (0x45#8, .les),
   (0x46#8, .gts), (0x47#8, .ges), (0x60#8, .fxadd64),
   (0x61#8, .fxsub64), (0x62#8, .fxmul64), (0x63#8, .fxdiv64),
   (0x64#8, .fxmod64), (0x65#8, .fxneg64), (0x66#8, .fxfromint64),
   (0x72#8, .fxmul128), (0x73#8, .fxdiv128), (0x76#8, .fxfromint128)]

/-- The command a word names, or why it names none. Total on all 2^32 words (R151, R155). -/
def decode (w : Word32) : Except DecodeError Instr :=
  if rsvField w ≠ 0 then .error .reservedBits
  else
    match opcodeMap.lookup (opcField w) with
    | some i => .ok i
    | none => .error .unlistedOpcode

/-- The opcode of a command, from the "Encoding" line of its own rule. -/
def opcode : Instr → BitVec 8
  | .nop => 0x00#8
  | .add => 0x01#8
  | .sub => 0x02#8
  | .eq => 0x08#8
  | .ne => 0x09#8
  | .ltu => 0x0A#8
  | .leu => 0x0B#8
  | .gtu => 0x0C#8
  | .geu => 0x0D#8
  | .and => 0x10#8
  | .or => 0x11#8
  | .xor => 0x12#8
  | .not => 0x13#8
  | .sll => 0x14#8
  | .srl => 0x15#8
  | .sra => 0x16#8
  | .zext64 => 0x18#8
  | .mul => 0x20#8
  | .mul64 => 0x21#8
  | .divu => 0x30#8
  | .remu => 0x31#8
  | .divs => 0x32#8
  | .rems => 0x33#8
  | .neg => 0x40#8
  | .sext64 => 0x41#8
  | .lts => 0x44#8
  | .les => 0x45#8
  | .gts => 0x46#8
  | .ges => 0x47#8
  | .fxadd64 => 0x60#8
  | .fxsub64 => 0x61#8
  | .fxmul64 => 0x62#8
  | .fxdiv64 => 0x63#8
  | .fxmod64 => 0x64#8
  | .fxneg64 => 0x65#8
  | .fxfromint64 => 0x66#8
  | .fxmul128 => 0x72#8
  | .fxdiv128 => 0x73#8
  | .fxfromint128 => 0x76#8

/-- The command word of a command: RSV = 0 above OPC (R150). -/
def encode (i : Instr) : Word32 := 0#24 ++ opcode i

/-- The command of an opcode-table row, for the host's questions: `w` has the table's bit numbering and
`nbits` bits. Every row has 32 bits, and a word wider than CMD is none. -/
def decodeTableWord (nbits w : Nat) : Option Instr :=
  if nbits ≤ 32 then (decode (BitVec.ofNat 32 (w % 2 ^ nbits))).toOption else none

end Sys2Proof
end

