-- ==== Sys2Proof/Machine/State.lean ====
section
/-! DEFINITION. The state of HFO-CORE128 (spec/10_state.md), the inputs its port and its RST pin take,
the response of the port, and the state after reset. The unit has no program counter, no memory and no
general register file (R55, R56, R69): what stands here is all the state the spec gives it, and four
fields of the model's own that carry its inputs and outputs (INVENTORY.md, "State"). -/

namespace Sys2Proof.Machine

/-- The algorithm tier of STATUS.TIER (R61, R350). -/
inductive Tier where
  /-- Code 0: the command has no tiers. -/
  | none
  /-- Code 1: the native 64-bit path. -/
  | t64
  /-- Code 2: the divisor fits in 32 bits. -/
  | t96
  /-- Code 3: the general 128-bit path. -/
  | t128
  deriving DecidableEq, Repr

/-- The recorded cause of STATUS.CAUSE (R63, R600). Codes 3 to 15 are never produced. -/
inductive Cause where
  /-- Code 0: no exception since reset. -/
  | none
  /-- Code 1: a divider command met a zero divisor (R601). -/
  | divideByZero
  /-- Code 2: the command word was not legal (R602). -/
  | illegalOperation
  deriving DecidableEq, Repr

/-- One host access as the port sees it (R15, R100): the offset from BASE and the size in bytes. Any
size and any offset may be offered; R104 says which are accepted. The bus has 64 data lines (D38): a write
of n bytes uses the low 8n of them. -/
inductive Access where
  /-- `MemRead(BASE + off, n)` -/
  | read (off : BitVec 8) (n : Nat)
  /-- `MemWrite(BASE + off, n, data)` -/
  | write (off : BitVec 8) (n : Nat) (data : Word64)
  deriving DecidableEq, Repr

/-- One input of the unit: an access offered to its one port, or a change of its RST input (R120, R650). -/
inductive PortEvent where
  /-- A host offers an access. -/
  | access (a : Access)
  /-- RST is asserted between two accesses. -/
  | rstAssert
  /-- RST is asserted during the LAT cycles of a CMD write of `w`, which is abandoned (R653). -/
  | rstAssertDuring (w : Word32)
  /-- RST is released. -/
  | rstRelease
  deriving DecidableEq, Repr

/-- What the port answered to the last access it was offered. -/
inductive Response where
  /-- Nothing has been offered yet. -/
  | none
  /-- The normal response to a write; a CMD write that raised gets it too (R605). -/
  | written
  /-- The data of an accepted 4-byte read. -/
  | data32 (w : Word32)
  /-- The data of an accepted 8-byte read. -/
  | data64 (v : Word64)
  /-- `busfault` on a read; the data lines hold no data the host may use (R110). -/
  | readError (lines : Word64)
  /-- `busfault` on a write (R110). -/
  | writeError
  /-- RST was asserted: the port accepted nothing (R650). -/
  | notAccepted
  /-- The CMD write was abandoned by RST: not completed (R653). -/
  | abandoned
  deriving DecidableEq, Repr

/-- The machine. The first ten fields are the spec's, `rst` is the level of its one input pin, and the
last three are the model's own. -/
structure State where
  /-- OPA, the first operand (R50, R51). -/
  opa : Word128
  /-- OPB, the second operand (R50, R51). -/
  opb : Word128
  /-- Y, the primary result (R50, R52). -/
  y : Word128
  /-- Z, the remainder of DIVU and DIVS (R50, R53). -/
  z : Word128
  /-- STATUS.C (R60). -/
  c : Bool
  /-- STATUS.FAULTED (R62). -/
  faulted : Bool
  /-- STATUS.TIER (R61). -/
  tier : Tier
  /-- STATUS.CAUSE (R63). -/
  cause : Cause
  /-- CTRL.FORCE128 (R64). -/
  force128 : Bool
  /-- FAULTCMD (R65). -/
  faultcmd : Word32
  /-- Whether the RST input is asserted (R650). -/
  rst : Bool
  /-- The model's own: the inputs still to come, in the order the port takes them (R120, R127, U11). -/
  inputs : List PortEvent
  /-- The model's own: the port's answer to the last access. -/
  response : Response
  /-- The model's own: how many refused reads have drawn a value of `Config.refusedReadData`. -/
  draws : Nat
  deriving DecidableEq, Repr

/-- Why the machine stops with a fault: never. The spec has no condition that stops the unit: an
exception is a next state (R605), a bus error is a response that leaves the state unchanged (R110), and a
command never hangs (R666). So the type has no constructor. -/
inductive Fault
  deriving DecidableEq, Repr

/-- Why the machine refuses to give a meaning. -/
inductive Refusal where
  /-- The arm of a command without a meaning. Safe. No arm raises it: all 39 commands have one. -/
  | notModelled (mnemonic : String)
  deriving DecidableEq, Repr

/-- The machine right after reset: every piece of the spec's state is 0 (R66, R650) and RST is released.
The model's own fields are empty (DESIGN CHOICE, notes/assumptions/3.md). -/
def State.reset : State where
  opa := 0#128
  opb := 0#128
  y := 0#128
  z := 0#128
  c := false
  faulted := false
  tier := .none
  cause := .none
  force128 := false
  faultcmd := 0#32
  rst := false
  inputs := []
  response := .none
  draws := 0

end Sys2Proof.Machine
end

