-- ==== Sys2Proof/Machine/Operands.lean ====
section
/-! DEFINITION. How a command reads its operands: the six forms of R152, limbs and digits (R9, R54), the
negate and magnitude of R14, and the two's-complement widenings of R11. A command reads OPA and OPB as
they stand when its CMD write is accepted (R58). -/

namespace Sys2Proof.Machine

/-- The six operand forms (R152). -/
inductive OperandForm where
  | nothing
  | bin128
  | un128
  | shift
  | bin64
  | un64
  deriving DecidableEq, Repr

/-- The form of each command (R152, R154). -/
def operandForm : Instr → OperandForm
  | .nop => .nothing
  | .add => .bin128
  | .sub => .bin128
  | .eq => .bin128
  | .ne => .bin128
  | .ltu => .bin128
  | .leu => .bin128
  | .gtu => .bin128
  | .geu => .bin128
  | .and => .bin128
  | .or => .bin128
  | .xor => .bin128
  | .not => .un128
  | .sll => .shift
  | .srl => .shift
  | .sra => .shift
  | .zext64 => .un64
  | .mul => .bin128
  | .mul64 => .bin64
  | .divu => .bin128
  | .remu => .bin128
  | .divs => .bin128
  | .rems => .bin128
  | .neg => .un128
  | .sext64 => .un64
  | .lts => .bin128
  | .les => .bin128
  | .gts => .bin128
  | .ges => .bin128
  | .fxadd64 => .bin64
  | .fxsub64 => .bin64
  | .fxmul64 => .bin64
  | .fxdiv64 => .bin64
  | .fxmod64 => .bin64
  | .fxneg64 => .un64
  | .fxfromint64 => .un64
  | .fxmul128 => .bin128
  | .fxdiv128 => .bin128
  | .fxfromint128 => .un128

/-- The `lower` limb, bits 63:0 (R9, R54). -/
def lower (v : Word128) : Word64 := v.extractLsb' 0 64

/-- The `upper` limb, bits 127:64 (R9, R54). -/
def upper (v : Word128) : Word64 := v.extractLsb' 64 64

/-- Digit k, bits 32k+31:32k (R9, R54). -/
def digit (v : Word128) (k : Nat) : Word32 := v.extractLsb' (32 * k) 32

/-- Limb k, bits 64k+63:64k (R102). -/
def limb (v : Word128) (k : Nat) : Word64 := v.extractLsb' (64 * k) 64

/-- Operand A, all of OPA (forms bin128, un128 and shift). -/
def operandA (s : State) : Word128 := s.opa

/-- Operand B, all of OPB (form bin128). -/
def operandB (s : State) : Word128 := s.opb

/-- Operand a, the low limb of OPA (forms bin64 and un64). -/
def operandA64 (s : State) : Word64 := lower s.opa

/-- Operand b, the low limb of OPB (form bin64). -/
def operandB64 (s : State) : Word64 := lower s.opb

/-- The shift amount n = u(B[6:0]) (R153, R404). -/
def shiftAmount (s : State) : Nat := (s.opb.extractLsb' 0 7).toNat

/-- NEG(v) = bv_N(u(~v) + 1), at the width of v (R14). -/
def negate {w : Nat} (v : BitVec w) : BitVec w := BitVec.ofNat w ((~~~v).toNat + 1)

/-- MAG(v), the unsigned magnitude of a signed value (R14). -/
def magnitude {w : Nat} (v : BitVec w) : BitVec w := if v.msb then negate v else v

/-- zext_128 of a limb (R11). -/
def zext128 (v : Word64) : Word128 := v.setWidth 128

/-- sext_128 of a limb (R11). -/
def sext128 (v : Word64) : Word128 := v.signExtend 128

/-- zext_128(bool(p)), the result of a compare (R12, R450, D40). -/
def boolWord (p : Bool) : Word128 := if p then 1#128 else 0#128

end Sys2Proof.Machine
end

