-- ==== Sys2Proof/Machine/Flags.lean ====
section
/-! DEFINITION. Every flag and tier a command computes: the carry and the borrow (R60), the two fast-path
selections (spec/43_fastpath_mux.md), and the words STATUS and CTRL are read as (R59, R64). -/

namespace Sys2Proof.Machine

/-- The carry out of bit 127 of an addition (R60, R201). -/
def carryOut (a b : Word128) : Bool := decide (2 ^ 128 ≤ a.toNat + b.toNat)

/-- The borrow out of bit 127 of a subtraction (R60, R202). -/
def borrowOut (a b : Word128) : Bool := decide (a.toNat < b.toNat)

/-- `tier_mul(a, b)`, on the integers the multiplier sees (R351, R356). -/
def tierMul (force128 : Bool) (a b : Nat) : Tier :=
  if force128 then .t128
  else if a < 2 ^ 64 ∧ b < 2 ^ 64 then .t64
  else .t128

/-- `tier_div(a, b)`, on the integers the divider sees, b ≠ 0 (R352, R356). T64 is tested before T96. -/
def tierDiv (force128 : Bool) (a b : Nat) : Tier :=
  if force128 then .t128
  else if a < 2 ^ 64 ∧ b < 2 ^ 64 then .t64
  else if b < 2 ^ 32 then .t96
  else .t128

/-- The code of a tier in STATUS.TIER (R59, R350). -/
def tierCode : Tier → BitVec 2
  | .none => 0#2
  | .t64 => 1#2
  | .t96 => 2#2
  | .t128 => 3#2

/-- The code of a cause in STATUS.CAUSE (R59, R600). -/
def causeCode : Cause → BitVec 4
  | .none => 0#4
  | .divideByZero => 1#4
  | .illegalOperation => 2#4

/-- STATUS as a host reads it: CAUSE 7:4, TIER 3:2, FAULTED 1, C 0, and 0 above (R59). -/
def statusWord (s : State) : Word32 :=
  0#24 ++ causeCode s.cause ++ tierCode s.tier ++ BitVec.ofBool s.faulted ++ BitVec.ofBool s.c

/-- CTRL as a host reads it: FORCE128 in bit 0, SRST reads 0, and 0 above (R64). -/
def ctrlWord (s : State) : Word32 := 0#31 ++ BitVec.ofBool s.force128

end Sys2Proof.Machine
end

