-- ==== Sys2Proof/Machine/Ops.lean ====
section
/-! DEFINITION. The shared operations on the state: completing a command, raising an exception, leaving the
fault state by a reset, the host's view of the register window, and the port's responses. -/

namespace Sys2Proof.Machine

/-! ### Completing a command (R52, R53, R60, R61) -/

/-- A command completes with result `y`, carry `c` and tier `t`; it writes nothing else (R18, R52). -/
def State.complete (s : State) (y : Word128) (c : Bool) (t : Tier) : State :=
  { s with y := y, c := c, tier := t }

/-- A divide completes with quotient `q` in Y and remainder `r` in Z; C is 0 (R53, R60). -/
def State.completeDivide (s : State) (q r : Word128) (t : Tier) : State :=
  { s with y := q, z := r, c := false, tier := t }

/-- A command completes and writes only C <- 0 and TIER <- 0 (R200). -/
def State.completeNothing (s : State) : State := { s with c := false, tier := .none }

/-! ### Exceptions (spec/60_exceptions.md) -/

/-- `raise E(cmd)`: FAULTED, CAUSE and FAULTCMD are written and nothing else (R605). `e` is the cause
code that E is recorded as. -/
def State.raise (s : State) (e : Cause) (cmd : Word32) : State :=
  { s with faulted := true, cause := e, faultcmd := cmd }

/-- The divisor check that every divider command makes before anything else (R302, R601): with a zero
divisor the command `i` raises DivideByZero(cmd) and does nothing else; with any other it ends in
`done`. The issued word cmd is the word of `i`: no other word decodes to it (notes/assumptions/10.md). -/
def unlessZeroDivisor (i : Instr) (divisor : Nat) (s done : State) :
    Host.Outcome State Fault Refusal :=
  if divisor = 0 then .next (s.raise .divideByZero (encode i)) else .next done

/-- Every piece of the unit's state takes its reset value (R66): what the RST input and the soft reset
do, and the only way out of the fault state (R608). The level of RST and the model's own fields stay. -/
def State.resetUnit (s : State) : State :=
  { State.reset with rst := s.rst, inputs := s.inputs, response := s.response, draws := s.draws }

/-- The level of the RST input (R650). -/
def State.setRst (s : State) (level : Bool) : State := { s with rst := level }

/-! ### The port (spec/20_memory.md) -/

/-- The inputs still to come. -/
def State.withInputs (s : State) (es : List PortEvent) : State := { s with inputs := es }

/-- The port answers an access. -/
def State.respond (s : State) (r : Response) : State := { s with response := r }

/-- The accesses the port accepts, by offset and size (R104). -/
def accepted (off : BitVec 8) (n : Nat) : Bool :=
  (n == 4 && off.toNat % 4 == 0) || (n == 8 && off.toNat % 8 == 0 && decide (off.toNat ≤ 0x38))

/-- The refusal of a read: a bus error whose data lines hold a free value; the unit's state is unchanged
(R110, U9). -/
def State.refuseRead (s : State) : State :=
  { s with response := .readError (Config.refusedReadData s.draws), draws := s.draws + 1 }

/-- The byte a host sees at an offset of the window (R101, R102). CMD and the reserved offsets read 0. -/
def windowByte (s : State) (off : BitVec 8) : Byte :=
  let o := off.toNat
  if o < 0x10 then s.opa.extractLsb' (8 * (o % 16)) 8
  else if o < 0x20 then s.opb.extractLsb' (8 * (o % 16)) 8
  else if o < 0x30 then s.y.extractLsb' (8 * (o % 16)) 8
  else if o < 0x40 then s.z.extractLsb' (8 * (o % 16)) 8
  else if o < 0x44 then 0#8
  else if o < 0x48 then (statusWord s).extractLsb' (8 * (o % 4)) 8
  else if o < 0x4C then (ctrlWord s).extractLsb' (8 * (o % 4)) 8
  else if o < 0x50 then s.faultcmd.extractLsb' (8 * (o % 4)) 8
  else 0#8

/-- The value of an accepted 4-byte read (R101, R102, R106): a digit of a 128-bit register, a 32-bit
register, or 0. -/
def readWord (s : State) (off : BitVec 8) : Word32 :=
  let o := off.toNat
  if o < 0x10 then digit s.opa (o % 16 / 4)
  else if o < 0x20 then digit s.opb (o % 16 / 4)
  else if o < 0x30 then digit s.y (o % 16 / 4)
  else if o < 0x40 then digit s.z (o % 16 / 4)
  else if o = 0x44 then statusWord s
  else if o = 0x48 then ctrlWord s
  else if o = 0x4C then s.faultcmd
  else 0#32

/-- The value of an accepted 8-byte read: a limb of a 128-bit register (R102, R106). -/
def readLimb (s : State) (off : BitVec 8) : Word64 :=
  let o := off.toNat
  if o < 0x10 then limb s.opa (o % 16 / 8)
  else if o < 0x20 then limb s.opb (o % 16 / 8)
  else if o < 0x30 then limb s.y (o % 16 / 8)
  else if o < 0x40 then limb s.z (o % 16 / 8)
  else 0#64

/-- The response to an accepted read (R106). -/
def readResponse (s : State) (off : BitVec 8) (n : Nat) : Response :=
  if n = 4 then .data32 (readWord s off) else .data64 (readLimb s off)

/-- x[r][32k+31:32k] <- w, the other bits unchanged (R107). -/
def setDigit (v : Word128) (k : Nat) (w : Word32) : Word128 :=
  v &&& ~~~((0xFFFF_FFFF#32).setWidth 128 <<< (32 * k)) ||| w.setWidth 128 <<< (32 * k)

/-- x[r][64k+63:64k] <- w, the other bits unchanged (R107). -/
def setLimb (v : Word128) (k : Nat) (w : Word64) : Word128 :=
  v &&& ~~~((0xFFFF_FFFF_FFFF_FFFF#64).setWidth 128 <<< (64 * k)) ||| w.setWidth 128 <<< (64 * k)

/-- The operand register `v` after an accepted n-byte write of `data` at an offset within it (R107). -/
def storeWord (v : Word128) (off : BitVec 8) (n : Nat) (data : Word64) : Word128 :=
  if n = 4 then setDigit v (off.toNat % 16 / 4) (data.setWidth 32)
  else setLimb v (off.toNat % 16 / 8) data

/-- OPA takes a value. -/
def State.setOpa (s : State) (v : Word128) : State := { s with opa := v }

/-- OPB takes a value. -/
def State.setOpb (s : State) (v : Word128) : State := { s with opb := v }

/-- CTRL.FORCE128 takes a value (R64). -/
def State.setForce128 (s : State) (b : Bool) : State := { s with force128 := b }

/-- An accepted write that is not to CMD or CTRL: OPA and OPB store it (R107), and every other offset
ignores it (R108). -/
def storeAccepted (s : State) (off : BitVec 8) (n : Nat) (data : Word64) : State :=
  if off.toNat < 0x10 then s.setOpa (storeWord s.opa off n data)
  else if off.toNat < 0x20 then s.setOpb (storeWord s.opb off n data)
  else s

/-- An accepted write of `w` to CTRL: SRST (bit 1) resets the unit, whatever bit 0 holds; otherwise bit 0
goes to FORCE128 and the reserved bits are dropped (R64, R652). -/
def writeCtrl (s : State) (w : Word32) : State :=
  if w.getLsbD 1 then s.resetUnit else s.setForce128 (w.getLsbD 0)

end Sys2Proof.Machine
end

