-- ==== Sys2Proof/Machine/AddSub.lean ====
section
/-! DEFINITION. The adder/subtractor: NOP, ADD, SUB (spec/40_addsub.md), and the limb-by-limb reference
forms of R203 and R204, which the spec gives as the circuit and which the commands' results equal. -/

namespace Sys2Proof.Machine

/-- NOP: C and TIER are written 0, Y and Z are unchanged (R200). -/
def execNop (s : State) : Host.Outcome State Fault Refusal := .next s.completeNothing

/-- ADD: Y <- bv_128(u(A) + u(B)), C the carry out of bit 127 (R201). -/
def execAdd (s : State) : Host.Outcome State Fault Refusal :=
  let a := operandA s
  let b := operandB s
  .next (s.complete (BitVec.ofNat 128 (a.toNat + b.toNat)) (carryOut a b) .none)

/-- SUB: Y <- bv_128(u(A) - u(B)), C the borrow out of bit 127 (R202). -/
def execSub (s : State) : Host.Outcome State Fault Refusal :=
  let a := operandA s
  let b := operandB s
  .next (s.complete (BitVec.ofInt 128 ((a.toNat : Int) - (b.toNat : Int))) (borrowOut a b) .none)

/-- R203's reference adder: the carry between the limbs is "result < operand". -/
def addByLimbs (a b : Word128) : Word128 :=
  let lo : Word64 := BitVec.ofNat 64 ((lower a).toNat + (lower b).toNat)
  let c0 : Nat := if lo.toNat < (lower a).toNat then 1 else 0
  let hi : Word64 := BitVec.ofNat 64 ((upper a).toNat + (upper b).toNat + c0)
  hi ++ lo

/-- R204's reference subtractor: the borrow between the limbs is "dividend < subtrahend". -/
def subByLimbs (a b : Word128) : Word128 :=
  let lo : Word64 := BitVec.ofInt 64 (((lower a).toNat : Int) - ((lower b).toNat : Int))
  let b0 : Int := if (lower a).toNat < (lower b).toNat then 1 else 0
  let hi : Word64 := BitVec.ofInt 64 (((upper a).toNat : Int) - ((upper b).toNat : Int) - b0)
  hi ++ lo

end Sys2Proof.Machine
end

