-- ==== Sys2Proof/Machine/Compare.lean ====
section
/-! DEFINITION. Unsigned compare and widening: EQ, NE, LTU, LEU, GTU, GEU, ZEXT64
(spec/45_compare_convert.md). Each writes C <- 0 and TIER <- 0. -/

namespace Sys2Proof.Machine

/-- `ltu(A, B)`: lexicographic, the upper limbs first (R449). -/
def ltu (a b : Word128) : Bool :=
  decide ((upper a).toNat < (upper b).toNat) ||
    (upper a == upper b && decide ((lower a).toNat < (lower b).toNat))

/-- A compare completes with the truth value `p` in Y (R450, D40). -/
def completeCompare (s : State) (p : Bool) : Host.Outcome State Fault Refusal :=
  .next (s.complete (boolWord p) false .none)

/-- EQ (R450). -/
def execEq (s : State) : Host.Outcome State Fault Refusal :=
  completeCompare s (operandA s == operandB s)

/-- NE (R451). -/
def execNe (s : State) : Host.Outcome State Fault Refusal :=
  completeCompare s (operandA s != operandB s)

/-- LTU (R452). -/
def execLtu (s : State) : Host.Outcome State Fault Refusal :=
  completeCompare s (ltu (operandA s) (operandB s))

/-- LEU (R453). -/
def execLeu (s : State) : Host.Outcome State Fault Refusal :=
  completeCompare s (ltu (operandA s) (operandB s) || operandA s == operandB s)

/-- GTU (R454). -/
def execGtu (s : State) : Host.Outcome State Fault Refusal :=
  completeCompare s (ltu (operandB s) (operandA s))

/-- GEU (R455). -/
def execGeu (s : State) : Host.Outcome State Fault Refusal :=
  completeCompare s (ltu (operandB s) (operandA s) || operandA s == operandB s)

/-- ZEXT64: the low limb of A, zero-extended; A[127:64] is ignored (R456). -/
def execZext64 (s : State) : Host.Outcome State Fault Refusal :=
  .next (s.complete (zext128 (operandA64 s)) false .none)

end Sys2Proof.Machine
end

