-- ==== Sys2Proof/Machine/Divide.lean ====
section
/-! DEFINITION. The divider: its three algorithms (R303 to R305 of spec/42_divide.md), the choice among them
by tier, and DIVU and REMU. The commands run the algorithm of the tier they report, as R300's pseudocode
does; that all three give the floor quotient and the remainder (R306) is proved, not assumed. -/

namespace Sys2Proof.Machine

/-- The value of 32-bit digit i of an integer (R9 on integers; β = 2^32). -/
def natDigit (v i : Nat) : Nat := v / 2 ^ (32 * i) % 2 ^ 32

/-- The sum over i < k of f(i)·β^i. -/
def digitSum (f : Nat → Nat) : Nat → Nat
  | 0 => 0
  | k + 1 => digitSum f k + f k * 2 ^ (32 * k)

/-- Tier T64: one native division (R303). -/
def divmodT64 (a b : Nat) : Nat × Nat := (a / b, a % b)

/-- The loop of tier T96 over the dividend's digits i-1 down to 0: `q` gathers q_i·2^(32i), `r` is the
partial remainder (R304). -/
def t96Loop (a b : Nat) : Nat → Nat → Nat → Nat × Nat
  | 0, q, r => (q, r)
  | i + 1, q, r =>
    let t := 2 ^ 32 * r + natDigit a i
    t96Loop a b i (q + t / b * 2 ^ (32 * i)) (t % b)

/-- Tier T96: single-digit long division over 3 digits of a dividend below 2^96, else over 4 (R304). -/
def divmodT96 (a b : Nat) : Nat × Nat := t96Loop a b (if a < 2 ^ 96 then 3 else 4) 0 0

/-- The largest i in 0..3 whose digit is not 0; 0 where there is none. -/
def topDigit (v : Nat) : Nat :=
  if natDigit v 3 ≠ 0 then 3
  else if natDigit v 2 ≠ 0 then 2
  else if natDigit v 1 ≠ 0 then 1
  else 0

/-- The count of leading zero bits of a value below 2^32, as 32 bits. -/
def leadingZeros32 (v : Nat) : Nat := if v = 0 then 32 else 31 - Nat.log2 v

/-- The correction loop of R305: while `rhat < β and qhat·v2 > rhat·β + u2`, qhat falls by 1 and rhat grows
by the divisor's leading digit. `fuel` bounds the turns. -/
def knuthCorrect (v1 v2 u2 : Nat) : Nat → Nat → Nat → Nat
  | 0, qhat, _ => qhat
  | fuel + 1, qhat, rhat =>
    if rhat < 2 ^ 32 ∧ 2 ^ 32 * rhat + u2 < qhat * v2 then
      knuthCorrect v1 v2 u2 fuel (qhat - 1) (rhat + v1)
    else qhat

/-- The trial quotient digit j of R305, capped at β - 1 and corrected (the loop "runs at most twice"; D17:
a one-digit divisor has v2 = 0). `vn` and `un` are the normalised digits, n the divisor's digit count. -/
def knuthTrial (n : Nat) (vn un : Nat → Nat) (j : Nat) : Nat :=
  let num := 2 ^ 32 * un (j + n) + un (j + n - 1)
  let v1 := vn (n - 1)
  let qhat := min (num / v1) (2 ^ 32 - 1)
  let rhat := num - qhat * v1
  let v2 := if 2 ≤ n then vn (n - 2) else 0
  let u2 := if 2 ≤ j + n then un (j + n - 2) else 0
  knuthCorrect v1 v2 u2 2 qhat rhat

/-- One output digit of R305: multiply and subtract, add back on underflow, write the partial remainder back
as n+1 digits. Gives q_j and the digits after it. -/
def knuthStep (n : Nat) (vn un : Nat → Nat) (j : Nat) : Nat × (Nat → Nat) :=
  let qhat := knuthTrial n vn un j
  let V := digitSum vn n
  let U := digitSum (fun i => un (j + i)) (n + 1)
  let T : Int := (U : Int) - (qhat : Int) * (V : Int)
  let T' : Int := if T < 0 then T + V else T
  (if T < 0 then qhat - 1 else qhat,
   fun k => if j ≤ k ∧ k ≤ j + n then natDigit T'.toNat (k - j) else un k)

/-- The loop of R305 over the output digits j-1 down to 0: `q` gathers q_j·β^j. -/
def knuthLoop (n : Nat) (vn : Nat → Nat) : Nat → (Nat → Nat) → Nat → Nat × (Nat → Nat)
  | 0, un, q => (q, un)
  | j + 1, un, q =>
    let st := knuthStep n vn un j
    knuthLoop n vn j st.2 (q + st.1 * 2 ^ (32 * j))

/-- Tier T128: normalised Knuth-style long division, with the shortcut for a < b (R305, D18). -/
def divmodT128 (a b : Nat) : Nat × Nat :=
  if a < b then (0, a)
  else
    let n := 1 + topDigit b
    let la := 1 + topDigit a
    let s := leadingZeros32 (natDigit b (n - 1))
    let vn := natDigit (b * 2 ^ s)
    let un := natDigit (a * 2 ^ s)
    let m := la - n
    let st := knuthLoop n vn (m + 1) un 0
    (st.1, digitSum st.2 n / 2 ^ s)

/-- divmod_t(a, b): the algorithm of the selected tier (R300). No divide selects NONE; that row is filled
with the native division and is never used. -/
def divmodTier : Tier → Nat → Nat → Nat × Nat
  | .none, a, b => divmodT64 a b
  | .t64, a, b => divmodT64 a b
  | .t96, a, b => divmodT96 a b
  | .t128, a, b => divmodT128 a b

/-- DIVU: quotient in Y, remainder in Z; DivideByZero on u(B) = 0 (R300, R302). -/
def execDivu (s : State) : Host.Outcome State Fault Refusal :=
  let a := (operandA s).toNat
  let b := (operandB s).toNat
  let t := tierDiv s.force128 a b
  let qr := divmodTier t a b
  unlessZeroDivisor .divu b s
    (s.completeDivide (BitVec.ofNat 128 qr.1) (BitVec.ofNat 128 qr.2) t)

/-- REMU: the remainder in Y, Z unchanged; DivideByZero on u(B) = 0 (R301, R302). -/
def execRemu (s : State) : Host.Outcome State Fault Refusal :=
  let a := (operandA s).toNat
  let b := (operandB s).toNat
  let t := tierDiv s.force128 a b
  let qr := divmodTier t a b
  unlessZeroDivisor .remu b s (s.complete (BitVec.ofNat 128 qr.2) false t)

end Sys2Proof.Machine
end

