-- ==== Sys2Proof/Machine/Signed.lean ====
section
/-! DEFINITION. The signed wrap layer: NEG, SEXT64, LTS, LES, GTS, GES, DIVS, REMS (spec/46_signed.md). The
layer stores nothing: a 128-bit pattern is negative exactly when bit 127 is 1 (R500). -/

namespace Sys2Proof.Machine

/-- NEG; MIN128 wraps back to itself (R501). -/
def execNeg (s : State) : Host.Outcome State Fault Refusal :=
  .next (s.complete (negate (operandA s)) false .none)

/-- SEXT64: a negative input goes through the two's-complement negate of its magnitude (R502). -/
def execSext64 (s : State) : Host.Outcome State Fault Refusal :=
  let a := operandA64 s
  .next (s.complete (if a.msb then negate (zext128 (negate a)) else zext128 a) false .none)

/-- `lts(A, B)`: values with the sign bit below values without it, else unsigned order (R508). -/
def lts (a b : Word128) : Bool := (a.msb && !b.msb) || (a.msb == b.msb && ltu a b)

/-- LTS (R504). -/
def execLts (s : State) : Host.Outcome State Fault Refusal :=
  completeCompare s (lts (operandA s) (operandB s))

/-- LES (R505). -/
def execLes (s : State) : Host.Outcome State Fault Refusal :=
  completeCompare s (lts (operandA s) (operandB s) || operandA s == operandB s)

/-- GTS (R506). -/
def execGts (s : State) : Host.Outcome State Fault Refusal :=
  completeCompare s (lts (operandB s) (operandA s))

/-- GES (R507). -/
def execGes (s : State) : Host.Outcome State Fault Refusal :=
  completeCompare s (lts (operandB s) (operandA s) || operandA s == operandB s)

/-- The tier of a signed division: the mux sees the magnitudes (R353, R355). -/
def signedTier (force128 : Bool) (a b : Word128) : Tier :=
  tierDiv force128 (magnitude a).toNat (magnitude b).toNat

/-- The signed divider: divide the magnitudes in tier `t`, then correct the signs. The quotient's sign is
the XOR of the operands' signs and the remainder's is the dividend's (R509, D13). -/
def signedDivmod (t : Tier) (a b : Word128) : Word128 × Word128 :=
  let qr := divmodTier t (magnitude a).toNat (magnitude b).toNat
  let q : Word128 := BitVec.ofNat 128 qr.1
  let r : Word128 := BitVec.ofNat 128 qr.2
  (if a.msb ^^ b.msb then negate q else q, if a.msb then negate r else r)

/-- DIVS: quotient in Y, remainder in Z; DivideByZero on u(B) = 0 (R510). -/
def execDivs (s : State) : Host.Outcome State Fault Refusal :=
  let a := operandA s
  let b := operandB s
  let t := signedTier s.force128 a b
  let qr := signedDivmod t a b
  unlessZeroDivisor .divs b.toNat s (s.completeDivide qr.1 qr.2 t)

/-- REMS: the remainder in Y, Z unchanged; DivideByZero on u(B) = 0 (R511). -/
def execRems (s : State) : Host.Outcome State Fault Refusal :=
  let a := operandA s
  let b := operandB s
  let t := signedTier s.force128 a b
  let qr := signedDivmod t a b
  unlessZeroDivisor .rems b.toNat s (s.complete qr.2 false t)

end Sys2Proof.Machine
end

