-- ==== Sys2Proof/Machine/FixedPoint.lean ====
section
/-! DEFINITION. The fixed-point scale unit (spec/47_fixedpoint.md). FInt commands work on the signed low
limbs and write the sign-extended result (R550); FBig commands work on all 128 bits. The scale is 2^12
(R8 FRAC). FBig add, subtract, negate and modulus are ADD, SUB, NEG and REMS (R559). -/

namespace Sys2Proof.Machine

/-- An FInt command completes: Y <- sext_128(r), C <- 0, TIER <- 0 (R550, R358). -/
def State.completeFInt (s : State) (r : Word64) : State := s.complete (sext128 r) false .none

/-- The rescale of a product: an arithmetic right shift by FRAC (R558). -/
def rescale {w : Nat} (p : BitVec w) : BitVec w := p.sshiftRight Config.frac

/-- The prescale of a dividend or an integer: a left shift by FRAC, which wraps (R558, R557). -/
def prescale {w : Nat} (v : BitVec w) : BitVec w := v <<< Config.frac

/-- FXADD64 (R551). -/
def execFxadd64 (s : State) : Host.Outcome State Fault Refusal :=
  .next (s.completeFInt (BitVec.ofInt 64 ((operandA64 s).toInt + (operandB64 s).toInt)))

/-- FXSUB64 (R552). -/
def execFxsub64 (s : State) : Host.Outcome State Fault Refusal :=
  .next (s.completeFInt (BitVec.ofInt 64 ((operandA64 s).toInt - (operandB64 s).toInt)))

/-- FXMUL64: the raw product wraps at 64 bits, then the rescale floors (R553). -/
def execFxmul64 (s : State) : Host.Outcome State Fault Refusal :=
  .next (s.completeFInt (rescale (BitVec.ofInt 64 ((operandA64 s).toInt * (operandB64 s).toInt))))

/-- FXDIV64: the prescaled dividend over the divisor, toward zero; DivideByZero on b = 0 (R554). -/
def execFxdiv64 (s : State) : Host.Outcome State Fault Refusal :=
  unlessZeroDivisor .fxdiv64 (operandB64 s).toNat s
    (s.completeFInt
      (BitVec.ofInt 64 ((prescale (operandA64 s)).toInt.tdiv (operandB64 s).toInt)))

/-- FXMOD64: the remainder of the raws, its sign the dividend's; DivideByZero on b = 0 (R555). -/
def execFxmod64 (s : State) : Host.Outcome State Fault Refusal :=
  unlessZeroDivisor .fxmod64 (operandB64 s).toNat s
    (s.completeFInt (BitVec.ofInt 64 ((operandA64 s).toInt.tmod (operandB64 s).toInt)))

/-- FXNEG64 (R556). -/
def execFxneg64 (s : State) : Host.Outcome State Fault Refusal :=
  .next (s.completeFInt (BitVec.ofInt 64 (-(operandA64 s).toInt)))

/-- FXFROMINT64 (R557). -/
def execFxfromint64 (s : State) : Host.Outcome State Fault Refusal :=
  .next (s.completeFInt (prescale (operandA64 s)))

/-- FXMUL128: the wrapped product, rescaled; the tier is selected on the magnitudes (R560, R354). -/
def execFxmul128 (s : State) : Host.Outcome State Fault Refusal :=
  let a := operandA s
  let b := operandB s
  .next (s.complete (rescale (BitVec.ofNat 128 (a.toNat * b.toNat))) false
    (tierMul s.force128 (magnitude a).toNat (magnitude b).toNat))

/-- FXDIV128: the signed division of the prescaled dividend, its quotient in Y, Z unchanged; DivideByZero
on u(B) = 0 (R561, R355). -/
def execFxdiv128 (s : State) : Host.Outcome State Fault Refusal :=
  let n := prescale (operandA s)
  let b := operandB s
  let t := signedTier s.force128 n b
  unlessZeroDivisor .fxdiv128 b.toNat s (s.complete (signedDivmod t n b).1 false t)

/-- FXFROMINT128 (R562). -/
def execFxfromint128 (s : State) : Host.Outcome State Fault Refusal :=
  .next (s.complete (prescale (operandA s)) false .none)

end Sys2Proof.Machine
end

