-- ==== Sys2Proof/Machine/Multiply.lean ====
section
/-! DEFINITION. The multiplier: MUL, MUL64 (spec/41_multiply.md), with the reference algorithms of the
64 x 64 -> 128 primitive (R252) and of its 128 x 128 composition (R253), which the commands' results
equal. -/

namespace Sys2Proof.Machine

/-- MUL: the low 128 bits of the product; the tier is selected on the unsigned patterns (R250, R351). -/
def execMul (s : State) : Host.Outcome State Fault Refusal :=
  let a := operandA s
  let b := operandB s
  .next (s.complete (BitVec.ofNat 128 (a.toNat * b.toNat)) false
    (tierMul s.force128 a.toNat b.toNat))

/-- MUL64: the exact product of the low limbs; TIER is T64 whatever FORCE128 holds (R251). -/
def execMul64 (s : State) : Host.Outcome State Fault Refusal :=
  .next (s.complete (BitVec.ofNat 128 ((operandA64 s).toNat * (operandB64 s).toNat)) false .t64)

/-- `mul64(a, b)`: the schoolbook primitive over 32-bit halves (R252). -/
def mul64ByHalves (a b : Word64) : Word128 :=
  let a0 := (a.extractLsb' 0 32).toNat
  let a1 := (a.extractLsb' 32 32).toNat
  let b0 := (b.extractLsb' 0 32).toNat
  let b1 := (b.extractLsb' 32 32).toNat
  let p00 := a0 * b0
  let p01 := a0 * b1
  let p10 := a1 * b0
  let p11 := a1 * b1
  let mid := p00 / 2 ^ 32 + p01 % 2 ^ 32 + p10 % 2 ^ 32
  let lo := p00 % 2 ^ 32 + 2 ^ 32 * (mid % 2 ^ 32)
  let hi := p11 + p01 / 2 ^ 32 + p10 / 2 ^ 32 + mid / 2 ^ 32
  BitVec.ofNat 64 hi ++ BitVec.ofNat 64 lo

/-- The 128 x 128 composition: only the terms that reach the low 128 bits (R253). -/
def mulByLimbs (a b : Word128) : Word128 :=
  let p := mul64ByHalves (lower a) (lower b)
  let cross : Word64 := BitVec.ofNat 64
    ((lower a).toNat * (upper b).toNat + (upper a).toNat * (lower b).toNat)
  BitVec.ofNat 64 ((upper p).toNat + cross.toNat) ++ lower p

end Sys2Proof.Machine
end

