-- ==== Sys2Proof/Machine/ShiftLogic.lean ====
section
/-! DEFINITION. The shift and logic unit: AND, OR, XOR, NOT, SLL, SRL, SRA (spec/44_shift_logic.md), and the
limb-wise reference forms of R408, which the shifts' results equal. Each writes C <- 0 and TIER <- 0. -/

namespace Sys2Proof.Machine

/-- AND (R400). -/
def execAnd (s : State) : Host.Outcome State Fault Refusal :=
  .next (s.complete (operandA s &&& operandB s) false .none)

/-- OR (R401). -/
def execOr (s : State) : Host.Outcome State Fault Refusal :=
  .next (s.complete (operandA s ||| operandB s) false .none)

/-- XOR (R402). -/
def execXor (s : State) : Host.Outcome State Fault Refusal :=
  .next (s.complete (operandA s ^^^ operandB s) false .none)

/-- NOT; B is ignored (R403). -/
def execNot (s : State) : Host.Outcome State Fault Refusal :=
  .next (s.complete (~~~(operandA s)) false .none)

/-- SLL: zeros enter at bit 0 (R404, R405). -/
def execSll (s : State) : Host.Outcome State Fault Refusal :=
  .next (s.complete (operandA s <<< shiftAmount s) false .none)

/-- SRL: zeros enter at bit 127 (R404, R406). -/
def execSrl (s : State) : Host.Outcome State Fault Refusal :=
  .next (s.complete (operandA s >>> shiftAmount s) false .none)

/-- SRA: copies of A[127] enter at bit 127 (R404, R407). -/
def execSra (s : State) : Host.Outcome State Fault Refusal :=
  .next (s.complete ((operandA s).sshiftRight (shiftAmount s)) false .none)

/-- R408's reference left shift by n < 128. -/
def shiftLeftByLimbs (a : Word128) (n : Nat) : Word128 :=
  let lo := lower a
  let hi := upper a
  if n = 0 then a
  else if n < 64 then ((hi <<< n) ||| (lo >>> (64 - n))) ++ (lo <<< n)
  else if n = 64 then lo ++ 0#64
  else (lo <<< (n - 64)) ++ 0#64

/-- R408's reference logical right shift by n < 128. -/
def shiftRightByLimbs (a : Word128) (n : Nat) : Word128 :=
  let lo := lower a
  let hi := upper a
  if n = 0 then a
  else if n < 64 then (hi >>> n) ++ ((lo >>> n) ||| (hi <<< (64 - n)))
  else if n = 64 then 0#64 ++ hi
  else 0#64 ++ (hi >>> (n - 64))

/-- R408's reference arithmetic right shift by n < 128: the vacated bits are copies of A[127]. -/
def shiftArithByLimbs (a : Word128) (n : Nat) : Word128 :=
  let lo := lower a
  let hi := upper a
  if n = 0 then a
  else if n < 64 then hi.sshiftRight n ++ ((lo >>> n) ||| (hi <<< (64 - n)))
  else (BitVec.ofBool hi.msb).signExtend 64 ++ hi.sshiftRight (n - 64)

end Sys2Proof.Machine
end

