-- ==== Sys2Proof/Machine/Dispatch.lean ====
section
/-! DEFINITION. The meaning of each of the 39 commands (R154), one arm each. -/

namespace Sys2Proof.Machine

def exec (i : Instr) (s : State) : Host.Outcome State Fault Refusal :=
  match i with
  | .nop => Sys2Proof.Machine.execNop s
  | .add => Sys2Proof.Machine.execAdd s
  | .sub => Sys2Proof.Machine.execSub s
  | .eq => Sys2Proof.Machine.execEq s
  | .ne => Sys2Proof.Machine.execNe s
  | .ltu => Sys2Proof.Machine.execLtu s
  | .leu => Sys2Proof.Machine.execLeu s
  | .gtu => Sys2Proof.Machine.execGtu s
  | .geu => Sys2Proof.Machine.execGeu s
  | .and => Sys2Proof.Machine.execAnd s
  | .or => Sys2Proof.Machine.execOr s
  | .xor => Sys2Proof.Machine.execXor s
  | .not => Sys2Proof.Machine.execNot s
  | .sll => Sys2Proof.Machine.execSll s
  | .srl => Sys2Proof.Machine.execSrl s
  | .sra => Sys2Proof.Machine.execSra s
  | .zext64 => Sys2Proof.Machine.execZext64 s
  | .mul => Sys2Proof.Machine.execMul s
  | .mul64 => Sys2Proof.Machine.execMul64 s
  | .divu => Sys2Proof.Machine.execDivu s
  | .remu => Sys2Proof.Machine.execRemu s
  | .divs => Sys2Proof.Machine.execDivs s
  | .rems => Sys2Proof.Machine.execRems s
  | .neg => Sys2Proof.Machine.execNeg s
  | .sext64 => Sys2Proof.Machine.execSext64 s
  | .lts => Sys2Proof.Machine.execLts s
  | .les => Sys2Proof.Machine.execLes s
  | .gts => Sys2Proof.Machine.execGts s
  | .ges => Sys2Proof.Machine.execGes s
  | .fxadd64 => Sys2Proof.Machine.execFxadd64 s
  | .fxsub64 => Sys2Proof.Machine.execFxsub64 s
  | .fxmul64 => Sys2Proof.Machine.execFxmul64 s
  | .fxdiv64 => Sys2Proof.Machine.execFxdiv64 s
  | .fxmod64 => Sys2Proof.Machine.execFxmod64 s
  | .fxneg64 => Sys2Proof.Machine.execFxneg64 s
  | .fxfromint64 => Sys2Proof.Machine.execFxfromint64 s
  | .fxmul128 => Sys2Proof.Machine.execFxmul128 s
  | .fxdiv128 => Sys2Proof.Machine.execFxdiv128 s
  | .fxfromint128 => Sys2Proof.Machine.execFxfromint128 s

end Sys2Proof.Machine
end

