-- ==== Sys2Proof/Machine/Port.lean ====
section
/-! DEFINITION. What the unit does with one input: issuing a command, performing a host access, and
following its RST pin; and the host's side of the bus, from addresses to accesses. -/

namespace Sys2Proof.Machine

/-- A CMD write of `w` issues it, in R604's order: in the fault state it is ignored (R607); an illegal word
raises IllegalOperation (R602); a legal one runs. -/
def issue (w : Word32) (s : State) : Host.Outcome State Fault Refusal :=
  if s.faulted then .next s
  else
    match decode w with
    | .ok i => exec i s
    | .error _ => .next (s.raise .illegalOperation w)

/-- An accepted write: to CMD it issues a command, to CTRL it acts as R64 says, elsewhere it stores or is
ignored (R107, R108, R109). -/
def writeAccepted (off : BitVec 8) (n : Nat) (data : Word64) (s : State) :
    Host.Outcome State Fault Refusal :=
  if off = 0x40#8 then issue (data.setWidth 32) s
  else if off = 0x48#8 then .next (writeCtrl s (data.setWidth 32))
  else .next (storeAccepted s off n data)

/-- One host access, complete before the next (R120). A refused one is a bus error and changes nothing of
the unit (R105, R110); the response to a write is returned once all its effects are done. -/
def performAccess (a : Access) (s : State) : Host.Outcome State Fault Refusal :=
  match a with
  | .read off n =>
    if accepted off n then .next (s.respond (readResponse s off n)) else .next s.refuseRead
  | .write off n data =>
    if accepted off n then writeAccepted off n data (s.respond .written)
    else .next (s.respond .writeError)

/-- One input. While RST is asserted the port accepts no access (R650); when it is released every piece of
state holds its reset value, and an access cut off by RST is not completed (R653). A release with RST not
asserted is no change of the pin. -/
def performEvent (e : PortEvent) (s : State) : Host.Outcome State Fault Refusal :=
  match e with
  | .access a => if s.rst then .next (s.respond .notAccepted) else performAccess a s
  | .rstAssert => .next (s.resetUnit.setRst true)
  | .rstAssertDuring _ =>
    .next ((s.resetUnit.setRst true).respond (if s.rst then .notAccepted else .abandoned))
  | .rstRelease => if s.rst then .next (s.resetUnit.setRst false) else .next s

/-! ### The host's side of the bus (R15, R100, R113) -/

/-- The window offset of a host byte address: `off = addr - BASE` within the window; outside it the
address is the platform's and does not reach the unit (R100). -/
def windowOffset (addr : Nat) : Option (BitVec 8) :=
  if Config.base ≤ addr ∧ addr < Config.base + Config.windowSize then
    some (BitVec.ofNat 8 (addr - Config.base))
  else none

/-- A host offers an access, after those already offered (R120, R127). -/
def offer (s : State) (a : Access) : State := s.withInputs (s.inputs ++ [.access a])

/-- `MemRead(addr, n)` (R15). -/
def memRead (s : State) (addr n : Nat) : State :=
  match windowOffset addr with
  | some off => offer s (.read off n)
  | none => s

/-- `MemWrite(addr, n, v)` (R15). -/
def memWrite (s : State) (addr n : Nat) (v : Word64) : State :=
  match windowOffset addr with
  | some off => offer s (.write off n v)
  | none => s

end Sys2Proof.Machine
end

