-- ==== Sys2Proof/Machine/Step.lean ====
section
/-! DEFINITION. One step of the machine: the unit takes its next input. The unit fetches no instructions
(R56): a command reaches it as a CMD write at the head of its inputs. -/

namespace Sys2Proof.Machine

/-- One step: the next input is taken and performed. With no input the unit holds its state (R616). -/
def step (s : State) : Host.Outcome State Fault Refusal :=
  match s.inputs with
  | [] => .next s
  | e :: rest => performEvent e (s.withInputs rest)

/-- `s` with a CMD write of the `nbits`-bit word `w` as the next input, and RST released so that the port
accepts it. It stands for the host that issues the command (notes/assumptions/2.md); in the fault state
the unit ignores it, as it ignores every command (R607). -/
def State.withFetchWord (s : State) (nbits w : Nat) : State :=
  { s with
    rst := false
    inputs := .access (.write 0x40#8 4 (BitVec.ofNat 64 (w % 2 ^ nbits))) :: s.inputs }

end Sys2Proof.Machine
end

