-- ==== Sys2Proof/Machine/Script.lean ====
section
/-! DEFINITION. The host-script notation (R158) and its pseudo-instructions (R159) of spec/30_encoding.md:
each statement expands to host accesses, given here by window offset. Host control flow and host
variables are the host's and expand to no access (R158); a statement that copies a value through a host
variable takes that variable's value as its argument. No step of the machine depends on this file. -/

namespace Sys2Proof.Machine

/-- A statement of the notation (R158). -/
inductive ScriptStatement where
  | wa (v : Word128)
  | wb (v : Word128)
  | command (i : Instr)
  | rdY
  | rdZ
  | rdA
  | rdB
  | rds
  | rdf
  | ctrl (v : Word32)
  | cmd (w : Word32)
  deriving DecidableEq, Repr

/-- A pseudo-instruction (R159). `mvya` and `mvyb` carry the host variable t that their reads fill. -/
inductive PseudoInstr where
  | muls
  | fxadd128
  | fxsub128
  | fxneg128
  | fxmod128
  | srst
  | force128On
  | force128Off
  | mvya (t : Word128)
  | mvyb (t : Word128)
  deriving DecidableEq, Repr

/-- Four 4-byte writes of the digits of `v`, digit 0 first, from offset `o` (R158 `wa`, `wb`). -/
def writeDigits (o : Nat) (v : Word128) : List Access :=
  [0, 1, 2, 3].map fun k => .write (BitVec.ofNat 8 (o + 4 * k)) 4 ((digit v k).setWidth 64)

/-- Four 4-byte reads of a 128-bit register, digit 0 first, from offset `o` (R158 `rd`). -/
def readDigits (o : Nat) : List Access :=
  [0, 1, 2, 3].map fun k => .read (BitVec.ofNat 8 (o + 4 * k)) 4

/-- The accesses of a statement (R158). -/
def expandStatement : ScriptStatement → List Access
  | .wa v => writeDigits 0x00 v
  | .wb v => writeDigits 0x10 v
  | .command i => [.write 0x40#8 4 ((opcode i).setWidth 64)]
  | .rdY => readDigits 0x20
  | .rdZ => readDigits 0x30
  | .rdA => readDigits 0x00
  | .rdB => readDigits 0x10
  | .rds => [.read 0x44#8 4]
  | .rdf => [.read 0x4C#8 4]
  | .ctrl v => [.write 0x48#8 4 (v.setWidth 64)]
  | .cmd w => [.write 0x40#8 4 (w.setWidth 64)]

/-- The statements a pseudo-instruction stands for (R159). -/
def expandPseudo : PseudoInstr → List ScriptStatement
  | .muls => [.command .mul]
  | .fxadd128 => [.command .add]
  | .fxsub128 => [.command .sub]
  | .fxneg128 => [.command .neg]
  | .fxmod128 => [.command .rems]
  | .srst => [.ctrl 0x2#32]
  | .force128On => [.ctrl 0x1#32]
  | .force128Off => [.ctrl 0x0#32]
  | .mvya t => [.rdY, .wa t]
  | .mvyb t => [.rdY, .wb t]

/-- A host offers the accesses of a list, in order (R120). -/
def offerAll (s : State) (as : List Access) : State := as.foldl offer s

end Sys2Proof.Machine
end

