-- ==== Sys2Proof/Safety.lean ====
section
/-! DEFINITION. The terms statements are made in: the unit's state without the model's own fields, what a read
answers, the commands that can raise, what a divisor is, and the invariant of a run. -/

namespace Sys2Proof.Machine

/-- The state the spec gives the unit: `s` with the pin and the model's own fields put aside. -/
def State.unit (s : State) : State :=
  { s with rst := false, inputs := [], response := .none, draws := 0 }

/-- A 4-byte read offered to `s` at offset `o` is answered with the datum `v` and changes nothing else,
whatever inputs come after it. -/
def State.answersWord (s : State) (o v : Nat) : Prop :=
  ∀ rest, ∃ w : Word32,
    step { s with inputs := .access (.read (BitVec.ofNat 8 o) 4) :: rest } =
      .next { s with inputs := rest, response := .data32 w } ∧ w.toNat = v

/-- An 8-byte read offered to `s` at offset `o` is answered with the datum `v` and changes nothing else,
whatever inputs come after it. -/
def State.answersLimb (s : State) (o v : Nat) : Prop :=
  ∀ rest, ∃ w : Word64,
    step { s with inputs := .access (.read (BitVec.ofNat 8 o) 8) :: rest } =
      .next { s with inputs := rest, response := .data64 w } ∧ w.toNat = v

/-- The commands that raise DivideByZero on a zero divisor (R600). -/
def canDivideByZero : Instr → Bool
  | .divu => true
  | .remu => true
  | .divs => true
  | .rems => true
  | .fxdiv64 => true
  | .fxmod64 => true
  | .fxdiv128 => true
  | .nop => false
  | .add => false
  | .sub => false
  | .eq => false
  | .ne => false
  | .ltu => false
  | .leu => false
  | .gtu => false
  | .geu => false
  | .and => false
  | .or => false
  | .xor => false
  | .not => false
  | .sll => false
  | .srl => false
  | .sra => false
  | .zext64 => false
  | .mul => false
  | .mul64 => false
  | .neg => false
  | .sext64 => false
  | .lts => false
  | .les => false
  | .gts => false
  | .ges => false
  | .fxadd64 => false
  | .fxsub64 => false
  | .fxmul64 => false
  | .fxneg64 => false
  | .fxfromint64 => false
  | .fxmul128 => false
  | .fxfromint128 => false

/-- The divisor is zero, as R600 says for each divider command: all of B for DIVU, REMU, DIVS, REMS and
FXDIV128, B[63:0] for FXDIV64 and FXMOD64. No other command has a divisor. -/
def zeroDivisor (i : Instr) (s : State) : Prop :=
  canDivideByZero i = true ∧
    (if i = .fxdiv64 ∨ i = .fxmod64 then s.opb.toNat % 2 ^ 64 = 0 else s.opb.toNat = 0)

/-- The invariant of every run: CAUSE and FAULTCMD are 0 while FAULTED is 0 (R63, R65); while it is 1 they
hold a cause and the word that raised it, which is a divider's word for DivideByZero and an illegal word
for IllegalOperation (R62, R600, R605); and while RST is asserted the unit is at its reset values (R650). -/
def State.Inv (s : State) : Prop :=
  (s.faulted = false → s.cause = .none ∧ s.faultcmd = 0#32) ∧
  (s.faulted = true →
    (s.cause = .divideByZero ∧ ∃ i, decode s.faultcmd = .ok i ∧ canDivideByZero i = true) ∨
    (s.cause = .illegalOperation ∧ legalWord s.faultcmd = false)) ∧
  (s.rst = true → s.unit = State.reset)

end Sys2Proof.Machine
end

