-- ==== Sys2Proof/Certificates/Slice0/Obligations.lean ====
section
/-! DEFINITION. The statements about HFO-CORE128. Results are stated on integers (u(v) is `toNat`, s(v) is
`toInt`) and on single bits, as the spec's rules are, not through the model's own operations. A conclusion
`exec i s = .next { s with … }` is the result, the frame and the completion of the command at once: every
field it does not name is unchanged. -/

open Sys2Proof Sys2Proof.Machine

/-! ### Encoding -/

/-- Decoding inverts encoding, and no other word decodes to a command: no bit of a command word is dropped. -/
def Obligations.DecodeAndEncodeAreInverse : Prop :=
  (∀ i : Instr, i.wellFormed = true → decode (encode i) = .ok i) ∧
  (∀ (w : Word32) (i : Instr), decode w = .ok i → encode i = w)

/-- R155: the illegal words are those with a bit of 31:8 set and those whose opcode is in one of the listed
ranges; each raises IllegalOperation, and every other word is a command. -/
def Obligations.IllegalWordsAreExactlyTheListed : Prop :=
  ∀ w : Word32,
    ((w.toNat / 256 ≠ 0 ∨
        ∃ r ∈ illegalOpcodeRanges, r.1 ≤ w.toNat % 256 ∧ w.toNat % 256 ≤ r.2) →
      ∀ s : State, s.faulted = false →
        issue w s =
          .next { s with faulted := true, cause := .illegalOperation, faultcmd := w }) ∧
    (¬(w.toNat / 256 ≠ 0 ∨
        ∃ r ∈ illegalOpcodeRanges, r.1 ≤ w.toNat % 256 ∧ w.toNat % 256 ≤ r.2) →
      ∃ i, decode w = .ok i)

/-- One word of each unit, its 32 bits written out from R150 and R154, and two illegal ones. -/
def Obligations.WrittenOutWordsDecode : Prop :=
  decode 0b00000000_00000000_00000000_00000010#32 = .ok .sub ∧
  decode 0b00000000_00000000_00000000_00001101#32 = .ok .geu ∧
  decode 0b00000000_00000000_00000000_00010110#32 = .ok .sra ∧
  decode 0b00000000_00000000_00000000_00011000#32 = .ok .zext64 ∧
  decode 0b00000000_00000000_00000000_00100001#32 = .ok .mul64 ∧
  decode 0b00000000_00000000_00000000_00110000#32 = .ok .divu ∧
  decode 0b00000000_00000000_00000000_01000001#32 = .ok .sext64 ∧
  decode 0b00000000_00000000_00000000_01100011#32 = .ok .fxdiv64 ∧
  decode 0b00000000_00000000_00000000_01110110#32 = .ok .fxfromint128 ∧
  decode 0b00000000_00000000_00000000_00000011#32 = .error .unlistedOpcode ∧
  decode 0b10000000_00000000_00000000_00110000#32 = .error .reservedBits

/-! ### The machine -/

/-- A CMD write at the head of the inputs runs the command it decodes to: `step` is `exec` of that command at
the state with the input taken and the write's normal response given. -/
def Obligations.StepRunsDecodedCommand : Prop :=
  ∀ (s : State) (d : Word64) (rest : List PortEvent) (i : Instr),
    s.inputs = .access (.write 0x40#8 4 d) :: rest → s.rst = false → s.faulted = false →
    decode (d.setWidth 32) = .ok i → i.wellFormed = true →
    step s = exec i { s with inputs := rest, response := .written }

/-- R602: a CMD write of a word that is not legal raises IllegalOperation(w); every other field stands. -/
def Obligations.IllegalWordRaises : Prop :=
  ∀ (s : State) (d : Word64) (rest : List PortEvent),
    s.inputs = .access (.write 0x40#8 4 d) :: rest → s.rst = false → s.faulted = false →
    legalWord (d.setWidth 32) = false →
    step s = .next { s with
      inputs := rest, response := .written,
      faulted := true, cause := .illegalOperation, faultcmd := d.setWidth 32 }

/-- In the fault state a CMD write changes nothing, whatever its word (R607): it only gets its response. -/
def Obligations.FaultedUnitIgnoresCommands : Prop :=
  ∀ (s : State) (d : Word64) (rest : List PortEvent),
    s.inputs = .access (.write 0x40#8 4 d) :: rest → s.rst = false → s.faulted = true →
    step s = .next { s with inputs := rest, response := .written }

/-- R608: the fault state is left only by a reset, by the RST input or by CTRL.SRST, which leaves every
piece of the unit's state at its reset value; and no second fault is recorded in it. -/
def Obligations.FaultStateIsLeftOnlyByReset : Prop :=
  ∀ s t : State, s.faulted = true → step s = .next t →
    (t.faulted = true ∧ t.cause = s.cause ∧ t.faultcmd = s.faultcmd) ∨
    (t.unit = State.reset ∧ ∃ e rest, s.inputs = e :: rest ∧
      (e = .rstAssert ∨ (∃ w, e = .rstAssertDuring w) ∨ e = .rstRelease ∨
        ∃ d : Word64, e = .access (.write 0x48#8 4 d) ∧ d.getLsbD 1 = true))

/-- The unit always completes what it is given: no step faults, refuses or hangs. (That a state without inputs
is held is the model's choice, notes/assumptions/1.md.) -/
def Obligations.EveryStepHasANextState : Prop :=
  ∀ s : State, ∃ t, step s = .next t

/-- Every command completes: with a zero divisor by its exception, otherwise with its result. -/
def Obligations.EveryCommandHasANextState : Prop :=
  ∀ (i : Instr) (s : State), ∃ t, exec i s = .next t ∧
    (zeroDivisor i s → t.faulted = true) ∧ (¬zeroDivisor i s → t.faulted = s.faulted)

/-- Every step keeps the fault record and the reset values under RST as `State.Inv` says. (That the reset values
stand from the assertion of RST on is the model's choice, notes/assumptions/6.md.) -/
def Obligations.EveryStepKeepsTheFaultRecord : Prop :=
  ∀ s t : State, s.Inv → step s = .next t → t.Inv

/-- The state after reset has the invariant. -/
def Obligations.ResetHasTheFaultRecord : Prop := State.reset.Inv

/-- R66: the value of every piece of state after a reset. -/
def Obligations.ResetValues : Prop :=
  State.reset.opa.toNat = 0 ∧ State.reset.opb.toNat = 0 ∧ State.reset.y.toNat = 0 ∧
  State.reset.z.toNat = 0 ∧ (statusWord State.reset).toNat = 0 ∧
  State.reset.c = false ∧ State.reset.faulted = false ∧ State.reset.tier = .none ∧
  State.reset.cause = .none ∧ State.reset.force128 = false ∧ State.reset.faultcmd.toNat = 0

/-- R652: a 4-byte write to CTRL with bit 1 set sets every piece of state to its reset value, whatever the
rest of the word holds, in the fault state too. -/
def Obligations.SoftResetSetsEverything : Prop :=
  ∀ (s : State) (d : Word64) (rest : List PortEvent),
    s.inputs = .access (.write 0x48#8 4 d) :: rest → s.rst = false → d.getLsbD 1 = true →
    step s = .next { s with
      inputs := rest, response := .written,
      opa := 0#128, opb := 0#128, y := 0#128, z := 0#128, c := false, faulted := false,
      tier := .none, cause := .none, force128 := false, faultcmd := 0#32 }

/-- R650: while RST is asserted the port accepts no access, and when RST is released every piece of state
holds its reset value. An assertion of RST leaves it asserted, the port closed, and the reset values in
place. (That the values are set at the assertion already, and that an access offered meanwhile is answered
"not accepted" and not kept, are the model's choices, notes/assumptions/6.md.) -/
def Obligations.ResetInputHoldsThePort : Prop :=
  (∀ (s : State) (rest : List PortEvent), s.inputs = .rstAssert :: rest →
    ∃ t, step s = .next t ∧ t.rst = true ∧ t.inputs = rest ∧ t.unit = State.reset) ∧
  (∀ (s : State) (a : Access) (rest : List PortEvent),
    s.inputs = .access a :: rest → s.rst = true →
    step s = .next { s with inputs := rest, response := .notAccepted }) ∧
  (∀ (s : State) (rest : List PortEvent), s.inputs = .rstRelease :: rest → s.rst = true →
    ∃ t, step s = .next t ∧ t.rst = false ∧ t.inputs = rest ∧ t.unit = State.reset)

/-- A reset asserted during a CMD write's LAT cycles abandons the command: the state is the reset state and
the write is not completed (R653). (The answer `abandoned` that shows this is the model's own,
notes/assumptions/7.md.) -/
def Obligations.ResetAbandonsTheCommandInFlight : Prop :=
  ∀ (s : State) (w : Word32) (rest : List PortEvent),
    s.inputs = .rstAssertDuring w :: rest → s.rst = false →
    ∃ t, step s = .next t ∧ t.unit = State.reset ∧ t.rst = true ∧ t.inputs = rest ∧
      t.response = .abandoned

/-! ### The window -/

/-- An accepted read returns the bytes of the window at its offset, the lowest in the low bits, and
changes nothing of the unit (R102, R104, R106). -/
def Obligations.AcceptedReadReturnsTheWindowBytes : Prop :=
  ∀ (s : State) (off : BitVec 8) (n : Nat) (rest : List PortEvent),
    s.inputs = .access (.read off n) :: rest → s.rst = false →
    (n = 4 → off.toNat % 4 = 0 →
      ∃ w : Word32, step s = .next { s with inputs := rest, response := .data32 w } ∧
        ∀ j < 4, w.extractLsb' (8 * j) 8 = windowByte s (off + BitVec.ofNat 8 j)) ∧
    (n = 8 → off.toNat % 8 = 0 → off.toNat ≤ 0x38 →
      ∃ v : Word64, step s = .next { s with inputs := rest, response := .data64 v } ∧
        ∀ j < 8, v.extractLsb' (8 * j) 8 = windowByte s (off + BitVec.ofNat 8 j))

/-- What a host's read of the window answers: the 4-byte read at o + 4k is digit k and the 8-byte read at
o + 8k is limb k of the register at o, FAULTCMD reads as itself, CMD and the reserved offsets read 0, and no
read changes the unit. Byte j of a register stands at o + j (R101, R102, R106). -/
def Obligations.ReadsOfTheRegisters : Prop :=
  ∀ s : State,
    (s.rst = false →
      (∀ k < 4,
        s.answersWord (0x00 + 4 * k) (s.opa.toNat / 2 ^ (32 * k) % 2 ^ 32) ∧
        s.answersWord (0x10 + 4 * k) (s.opb.toNat / 2 ^ (32 * k) % 2 ^ 32) ∧
        s.answersWord (0x20 + 4 * k) (s.y.toNat / 2 ^ (32 * k) % 2 ^ 32) ∧
        s.answersWord (0x30 + 4 * k) (s.z.toNat / 2 ^ (32 * k) % 2 ^ 32)) ∧
      (∀ k < 2,
        s.answersLimb (0x00 + 8 * k) (s.opa.toNat / 2 ^ (64 * k) % 2 ^ 64) ∧
        s.answersLimb (0x10 + 8 * k) (s.opb.toNat / 2 ^ (64 * k) % 2 ^ 64) ∧
        s.answersLimb (0x20 + 8 * k) (s.y.toNat / 2 ^ (64 * k) % 2 ^ 64) ∧
        s.answersLimb (0x30 + 8 * k) (s.z.toNat / 2 ^ (64 * k) % 2 ^ 64)) ∧
      s.answersWord 0x4C s.faultcmd.toNat ∧
      (∀ o < 256, o % 4 = 0 → o = 0x40 ∨ 0x50 ≤ o → s.answersWord o 0)) ∧
    (∀ j < 16,
      (windowByte s (BitVec.ofNat 8 (0x00 + j))).toNat = s.opa.toNat / 2 ^ (8 * j) % 2 ^ 8 ∧
      (windowByte s (BitVec.ofNat 8 (0x10 + j))).toNat = s.opb.toNat / 2 ^ (8 * j) % 2 ^ 8 ∧
      (windowByte s (BitVec.ofNat 8 (0x20 + j))).toNat = s.y.toNat / 2 ^ (8 * j) % 2 ^ 8 ∧
      (windowByte s (BitVec.ofNat 8 (0x30 + j))).toNat = s.z.toNat / 2 ^ (8 * j) % 2 ^ 8) ∧
    (∀ j < 4,
      (windowByte s (BitVec.ofNat 8 (0x4C + j))).toNat = s.faultcmd.toNat / 2 ^ (8 * j) % 2 ^ 8)

/-- An 8-byte read at o sees what the 4-byte read at o sees, in its low half, and what the one at o + 4
sees, in its high half (R103). -/
def Obligations.EightByteReadIsTwoFourByteReads : Prop :=
  ∀ (s : State) (o : Nat), s.rst = false → o % 8 = 0 → o ≤ 0x38 →
    ∃ l h, s.answersWord o l ∧ s.answersWord (o + 4) h ∧ s.answersLimb o (l + 2 ^ 32 * h)

/-- STATUS as a host reads it: C in bit 0, FAULTED in bit 1, TIER in 3:2, CAUSE in 7:4, 0 above (R59). -/
def Obligations.StatusReadShowsTheFields : Prop :=
  ∀ (s : State) (rest : List PortEvent),
    s.inputs = .access (.read 0x44#8 4) :: rest → s.rst = false →
    ∃ w : Word32, step s = .next { s with inputs := rest, response := .data32 w } ∧
      w.toNat = (if s.c then 1 else 0) + (if s.faulted then 2 else 0) +
        (match s.tier with | .none => 0 | .t64 => 4 | .t96 => 8 | .t128 => 12) +
        (match s.cause with | .none => 0 | .divideByZero => 16 | .illegalOperation => 32)

/-- R105: every access outside R104's two forms is refused, with an error response, and changes no state
of the unit. (What the data lines of a refused read show is a free value, notes/assumptions/5.md.) -/
def Obligations.RefusedAccessChangesNothing : Prop :=
  ∀ (s : State) (off : BitVec 8) (n : Nat) (d : Word64) (rest : List PortEvent),
    s.rst = false → ¬(n = 4 ∧ off.toNat % 4 = 0) →
    ¬(n = 8 ∧ off.toNat % 8 = 0 ∧ off.toNat ≤ 0x38) →
    (s.inputs = .access (.read off n) :: rest →
      ∃ t, step s = .next t ∧ t.unit = s.unit ∧ t.rst = false ∧ t.inputs = rest ∧
        ∃ v, t.response = .readError v) ∧
    (s.inputs = .access (.write off n d) :: rest →
      step s = .next { s with inputs := rest, response := .writeError })

/-- R107: an accepted write to a word of OPA or OPB replaces exactly the bytes at that word's offset: byte
j of the data goes to offset off + j, every other byte of the window reads as before, and no other field
of the machine changes. -/
def Obligations.OperandWriteReplacesExactlyItsWord : Prop :=
  ∀ (s : State) (off : BitVec 8) (n : Nat) (d : Word64) (rest : List PortEvent),
    s.inputs = .access (.write off n d) :: rest → s.rst = false → off.toNat < 0x20 →
    (n = 4 ∧ off.toNat % 4 = 0) ∨ (n = 8 ∧ off.toNat % 8 = 0) →
    ∃ t, step s = .next t ∧
      t = { s with inputs := rest, response := .written, opa := t.opa, opb := t.opb } ∧
      ∀ o : BitVec 8, windowByte t o =
        if off.toNat ≤ o.toNat ∧ o.toNat < off.toNat + n then
          d.extractLsb' (8 * (o.toNat - off.toNat)) 8
        else windowByte s o

/-- R108: an accepted write to Y, Z, STATUS, FAULTCMD or a reserved offset is ignored: no state changes and
no bus error is raised. Two writes to CTRL that differ only in reserved bits do the same. -/
def Obligations.WritesToReadOnlyRegistersAreIgnored : Prop :=
  (∀ (s : State) (off : BitVec 8) (n : Nat) (d : Word64) (rest : List PortEvent),
    s.inputs = .access (.write off n d) :: rest → s.rst = false →
    (n = 4 ∧ off.toNat % 4 = 0) ∨ (n = 8 ∧ off.toNat % 8 = 0 ∧ off.toNat ≤ 0x38) →
    0x20 ≤ off.toNat → off ≠ 0x40#8 → off ≠ 0x48#8 →
    step s = .next { s with inputs := rest, response := .written }) ∧
  (∀ (s : State) (d d' : Word64) (rest : List PortEvent), s.rst = false →
    d.getLsbD 0 = d'.getLsbD 0 → d.getLsbD 1 = d'.getLsbD 1 →
    step { s with inputs := .access (.write 0x48#8 4 d) :: rest } =
      step { s with inputs := .access (.write 0x48#8 4 d') :: rest })

/-- R64: CTRL. A write with bit 1 clear sets FORCE128 to bit 0 and nothing else; with bit 1 set FORCE128 is
0 afterwards; a read shows FORCE128 in bit 0 and 0 everywhere else. All of it in the fault state too. -/
def Obligations.ControlRegisterWritesAndReads : Prop :=
  (∀ (s : State) (d : Word64) (rest : List PortEvent),
    s.inputs = .access (.write 0x48#8 4 d) :: rest → s.rst = false →
    (d.getLsbD 1 = false →
      step s = .next { s with
        inputs := rest, response := .written, force128 := d.getLsbD 0 }) ∧
    (d.getLsbD 1 = true →
      ∃ t, step s = .next t ∧ t.unit = State.reset ∧ t.force128 = false)) ∧
  (∀ (s : State) (rest : List PortEvent),
    s.inputs = .access (.read 0x48#8 4) :: rest → s.rst = false →
    ∃ w : Word32, step s = .next { s with inputs := rest, response := .data32 w } ∧
      w.toNat = if s.force128 then 1 else 0)

/-- R100: the unit occupies the 256 host addresses from BASE, a multiple of 256. A host access at BASE + off
is offered to the port as the access at off, after those already offered; one at any other address does not
reach the unit. -/
def Obligations.WindowDecodesHostAddresses : Prop :=
  Config.base % 256 = 0 ∧
  (∀ (addr : Nat) (off : BitVec 8),
    windowOffset addr = some off ↔ addr = Config.base + off.toNat) ∧
  (∀ (s : State) (off : BitVec 8) (n : Nat) (v : Word64),
    memRead s (Config.base + off.toNat) n =
      { s with inputs := s.inputs ++ [.access (.read off n)] } ∧
    memWrite s (Config.base + off.toNat) n v =
      { s with inputs := s.inputs ++ [.access (.write off n v)] }) ∧
  (∀ (s : State) (addr n : Nat) (v : Word64),
    addr < Config.base ∨ Config.base + 0xFF < addr →
    memWrite s addr n v = s ∧ memRead s addr n = s)

/-- R606: the STATUS read that follows a faulting CMD write returns FAULTED = 1 and the CAUSE, whatever
inputs come after it. -/
def Obligations.StatusReadAfterFaultShowsTheCause : Prop :=
  ∀ (s : State) (d : Word64) (rest : List PortEvent), s.rst = false → s.faulted = false →
    s.inputs = .access (.write 0x40#8 4 d) :: .access (.read 0x44#8 4) :: rest →
    (legalWord (d.setWidth 32) = false →
      ∃ t u w, step s = .next t ∧ step t = .next u ∧ u.response = .data32 w ∧
        w.getLsbD 1 = true ∧ w.toNat / 16 % 16 = 2) ∧
    (∀ i, decode (d.setWidth 32) = .ok i → zeroDivisor i s →
      ∃ t u w, step s = .next t ∧ step t = .next u ∧ u.response = .data32 w ∧
        w.getLsbD 1 = true ∧ w.toNat / 16 % 16 = 1)

/-- OPA and OPB change only by accepted host writes to their own words and by a reset; no command writes
them (R51). -/
def Obligations.OperandsChangeOnlyByHostWritesAndResets : Prop :=
  ∀ s t : State, step s = .next t → t.opa ≠ s.opa ∨ t.opb ≠ s.opb →
    (t.unit = State.reset ∧ ∃ e rest, s.inputs = e :: rest ∧
      (e = .rstAssert ∨ (∃ w, e = .rstAssertDuring w) ∨ (e = .rstRelease ∧ s.rst = true) ∨
        ∃ d : Word64, e = .access (.write 0x48#8 4 d) ∧ s.rst = false ∧ d.getLsbD 1 = true)) ∨
    ∃ off n d rest, s.inputs = .access (.write off n d) :: rest ∧ s.rst = false ∧
      accepted off n = true ∧ off.toNat < 0x20 ∧
      (t.opa ≠ s.opa → off.toNat < 0x10) ∧ (t.opb ≠ s.opb → 0x10 ≤ off.toNat)

/-- The `wa` and `wb` statements of the host script write all 128 bits of their operand register with their
four accesses, and change nothing else (R158). -/
def Obligations.ScriptWritesSetTheOperand : Prop :=
  ∀ (s : State) (v : Word128), s.rst = false → s.inputs = [] →
    (∃ t₁ t₂ t₃, step (offerAll s (expandStatement (.wa v))) = .next t₁ ∧ step t₁ = .next t₂ ∧
      step t₂ = .next t₃ ∧ step t₃ = .next { s with opa := v, response := .written }) ∧
    (∃ t₁ t₂ t₃, step (offerAll s (expandStatement (.wb v))) = .next t₁ ∧ step t₁ = .next t₂ ∧
      step t₂ = .next t₃ ∧ step t₃ = .next { s with opb := v, response := .written })

/-! ### What every command keeps and writes -/

/-- The frame of every command: OPA, OPB, CTRL, the pin and the inputs are unchanged; the fault record is
unchanged unless the command raises; and every byte of the window outside Y, Z, STATUS and FAULTCMD reads
as before. -/
def Obligations.CommandFrame : Prop :=
  ∀ (i : Instr) (s t : State), exec i s = .next t →
    t.opa = s.opa ∧ t.opb = s.opb ∧ t.force128 = s.force128 ∧ t.rst = s.rst ∧
    t.inputs = s.inputs ∧ t.response = s.response ∧ t.draws = s.draws ∧
    (¬zeroDivisor i s →
      t.faulted = s.faulted ∧ t.cause = s.cause ∧ t.faultcmd = s.faultcmd) ∧
    ∀ off : BitVec 8, off.toNat < 0x20 ∨ (0x40 ≤ off.toNat ∧ off.toNat < 0x44) ∨
      (0x48 ≤ off.toNat ∧ off.toNat < 0x4C) ∨ 0x50 ≤ off.toNat →
      windowByte t off = windowByte s off

/-- R605, for DivideByZero: with a zero divisor a divider command sets FAULTED, CAUSE and FAULTCMD and does
nothing else. -/
def Obligations.ZeroDivisorRaisesAndWritesNothingElse : Prop :=
  ∀ (i : Instr) (s : State), zeroDivisor i s →
    exec i s = .next { s with faulted := true, cause := .divideByZero, faultcmd := encode i }

/-- R603: no other condition raises an exception: a step enters the fault state exactly when it is a CMD
write that the port accepts, of an illegal word or of a divider command with a zero divisor. -/
def Obligations.OnlyIllegalWordsAndZeroDivisorsRaise : Prop :=
  ∀ s t : State, s.faulted = false → step s = .next t →
    (t.faulted = true ↔ s.rst = false ∧ ∃ d rest,
      s.inputs = .access (.write 0x40#8 4 d) :: rest ∧
      (legalWord (d.setWidth 32) = false ∨
        ∃ i, decode (d.setWidth 32) = .ok i ∧ zeroDivisor i s))

/-- R53: Z is written only by DIVU and DIVS, which write the remainder there; a command that raises does not
write Z. -/
def Obligations.OnlyFullDividesWriteZ : Prop :=
  (∀ (i : Instr) (s t : State), exec i s = .next t →
    (i ≠ .divu → i ≠ .divs → t.z = s.z) ∧ (zeroDivisor i s → t.z = s.z) ∧
    (i = .divu → ¬zeroDivisor i s → t.z.toNat = s.opa.toNat % s.opb.toNat) ∧
    (i = .divs → ¬zeroDivisor i s → t.z.toInt = s.opa.toInt.tmod s.opb.toInt)) ∧
  (∀ (w : Word32) (s t : State), s.faulted = false → issue w s = .next t → t.faulted = true →
    t.z = s.z)

/-- R60: STATUS.C. ADD writes the carry, SUB the borrow, every other completing command 0; a command that
raises leaves it; no command reads it. -/
def Obligations.CarryFlagOfEveryCommand : Prop :=
  (∀ (w : Word32) (s t : State), s.faulted = false → issue w s = .next t → t.faulted = true →
    t.c = s.c) ∧
  ∀ (i : Instr) (s t : State), exec i s = .next t →
    (zeroDivisor i s → t.c = s.c) ∧
    (¬zeroDivisor i s →
      (i = .add → (t.c = true ↔ 2 ^ 128 ≤ s.opa.toNat + s.opb.toNat)) ∧
      (i = .sub → (t.c = true ↔ s.opa.toNat < s.opb.toNat)) ∧
      (i ≠ .add → i ≠ .sub → t.c = false) ∧
      ∀ c : Bool, exec i { s with c := c } = .next t)

/-- R61 and R351 to R355: STATUS.TIER of every command. The multiplies and divides report the tier the mux
selects on the values it sees, every other completing command NONE; a command that raises leaves it; no
command reads it. -/
def Obligations.TierOfEveryCommand : Prop :=
  (∀ (w : Word32) (s t : State), s.faulted = false → issue w s = .next t → t.faulted = true →
    t.tier = s.tier) ∧
  ∀ (i : Instr) (s t : State), exec i s = .next t →
    let forMul (a b : Nat) : Tier :=
      if s.force128 = true then .t128 else if a < 2 ^ 64 ∧ b < 2 ^ 64 then .t64 else .t128
    let forDiv (a b : Nat) : Tier :=
      if s.force128 = true then .t128
      else if a < 2 ^ 64 ∧ b < 2 ^ 64 then .t64 else if b < 2 ^ 32 then .t96 else .t128
    let A := s.opa
    let B := s.opb
    (zeroDivisor i s → t.tier = s.tier) ∧
    (¬zeroDivisor i s →
      t.tier = (match i with
        | .mul => forMul A.toNat B.toNat
        | .mul64 => .t64
        | .divu => forDiv A.toNat B.toNat
        | .remu => forDiv A.toNat B.toNat
        | .divs => forDiv A.toInt.natAbs B.toInt.natAbs
        | .rems => forDiv A.toInt.natAbs B.toInt.natAbs
        | .fxmul128 => forMul A.toInt.natAbs B.toInt.natAbs
        | .fxdiv128 => forDiv ((A.toInt * 4096).bmod (2 ^ 128)).natAbs B.toInt.natAbs
        | _ => .none) ∧
      ∀ r : Tier, exec i { s with tier := r } = .next t)

/-- The tier changes STATUS.TIER and nothing else: with FORCE128 set or clear, a command gives the same Y, Z and
C and raises the same exceptions (R357, which the spec marks as its own inference, "[derived: from
42_divide.md rule R306 and 41_multiply.md rule R253]"). -/
def Obligations.TierNeverChangesAResult : Prop :=
  ∀ (i : Instr) (s t : State) (f : Bool), exec i s = .next t →
    ∃ r : Tier, exec i { s with force128 := f } = .next { t with force128 := f, tier := r }

/-- R152: the result of a command does not depend on the operand bits its form ignores. -/
def Obligations.IgnoredOperandBitsDoNotMatter : Prop :=
  ∀ (i : Instr) (s t : State) (a b : Word128), exec i s = .next t →
    (match operandForm i with
      | .nothing => True
      | .bin128 => a = s.opa ∧ b = s.opb
      | .un128 => a = s.opa
      | .shift => a = s.opa ∧ ∀ k < 7, b.getLsbD k = s.opb.getLsbD k
      | .bin64 => ∀ k < 64, a.getLsbD k = s.opa.getLsbD k ∧ b.getLsbD k = s.opb.getLsbD k
      | .un64 => ∀ k < 64, a.getLsbD k = s.opa.getLsbD k) →
    exec i { s with opa := a, opb := b } = .next { t with opa := a, opb := b }

/-- A command reads its operands and CTRL.FORCE128 and nothing else: what it writes is the same whatever Y, Z,
the flags and the fault record held before (R58, R67). -/
def Obligations.CommandsReadOnlyTheirOperands : Prop :=
  ∀ (i : Instr) (s s' t t' : State),
    s.opa = s'.opa → s.opb = s'.opb → s.force128 = s'.force128 →
    exec i s = .next t → exec i s' = .next t' → ¬zeroDivisor i s →
    t.c = t'.c ∧ t.tier = t'.tier ∧ (i ≠ .nop → t.y = t'.y) ∧
    (i = .divu ∨ i = .divs → t.z = t'.z)

/-! ### The commands, unit by unit -/

/-- R200, R201, R202: NOP, ADD and SUB. -/
def Obligations.AdderCommands : Prop :=
  (decode 0x00#32 = .ok .nop ∧ decode 0x01#32 = .ok .add ∧ decode 0x02#32 = .ok .sub) ∧
  ∀ s : State,
    exec .nop s = .next { s with c := false, tier := .none } ∧
    (s.faulted = true → issue 0x00#32 s = .next s) ∧
    (∃ y c, exec .add s = .next { s with y := y, c := c, tier := .none } ∧
      y.toNat = (s.opa.toNat + s.opb.toNat) % 2 ^ 128 ∧
      (c = true ↔ 2 ^ 128 ≤ s.opa.toNat + s.opb.toNat)) ∧
    (∃ y c, exec .sub s = .next { s with y := y, c := c, tier := .none } ∧
      (y.toNat : Int) = ((s.opa.toNat : Int) - (s.opb.toNat : Int)) % 2 ^ 128 ∧
      (c = true ↔ s.opa.toNat < s.opb.toNat))

/-- The limb-by-limb adder and subtractor give the results of ADD and SUB (R203 and R204, which the spec marks
as its own inference, "[derived: from rule R201 and HFO §4.1]"). -/
def Obligations.LimbwiseAdderGivesTheSameResults : Prop :=
  ∀ s t : State,
    (exec .add s = .next t → t.y = addByLimbs s.opa s.opb) ∧
    (exec .sub s = .next t → t.y = subByLimbs s.opa s.opb)

/-- The laws of the adder, MIN128 included (R205, which the spec marks as its own inference, "[derived: from
rules R201, R202 and 00_scope.md rule R14]"). -/
def Obligations.AdderLaws : Prop :=
  ∀ s t : State,
    (exec .add { s with opb := 0#128 } = .next t → t.y = s.opa) ∧
    (exec .add s = .next t → ∀ t', exec .add { s with opa := s.opb, opb := s.opa } = .next t' →
      t'.y = t.y ∧ t'.c = t.c) ∧
    (exec .neg s = .next t → ∀ t', exec .add { s with opb := t.y } = .next t' → t'.y.toNat = 0) ∧
    (exec .neg { s with opa := s.opb } = .next t → ∀ t' t'',
      exec .add { s with opb := t.y } = .next t' → exec .sub s = .next t'' → t''.y = t'.y) ∧
    (exec .sub s = .next t → ∀ t', exec .add { s with opa := t.y } = .next t' → t'.y = s.opa)

/-- R450 to R455: the unsigned compares write 0 or 1 to Y, clear C and TIER, and change nothing else. -/
def Obligations.UnsignedCompareCommands : Prop :=
  (decode 0x08#32 = .ok .eq ∧ decode 0x09#32 = .ok .ne ∧ decode 0x0A#32 = .ok .ltu ∧
    decode 0x0B#32 = .ok .leu ∧ decode 0x0C#32 = .ok .gtu ∧ decode 0x0D#32 = .ok .geu) ∧
  ∀ s : State,
    let A := s.opa.toNat
    let B := s.opb.toNat
    let gives (i : Instr) (p : Prop) : Prop := ∃ y,
      exec i s = .next { s with y := y, c := false, tier := .none } ∧
        (p → y.toNat = 1) ∧ (¬p → y.toNat = 0)
    gives .eq (A = B) ∧ gives .ne (A ≠ B) ∧ gives .ltu (A < B) ∧ gives .leu (A ≤ B) ∧
    gives .gtu (B < A) ∧ gives .geu (B ≤ A)

/-- R504 to R507: the signed compares. -/
def Obligations.SignedCompareCommands : Prop :=
  (decode 0x44#32 = .ok .lts ∧ decode 0x45#32 = .ok .les ∧ decode 0x46#32 = .ok .gts ∧
    decode 0x47#32 = .ok .ges) ∧
  ∀ s : State,
    let A := s.opa.toInt
    let B := s.opb.toInt
    let gives (i : Instr) (p : Prop) : Prop := ∃ y,
      exec i s = .next { s with y := y, c := false, tier := .none } ∧
        (p → y.toNat = 1) ∧ (¬p → y.toNat = 0)
    gives .lts (A < B) ∧ gives .les (A ≤ B) ∧ gives .gts (B < A) ∧ gives .ges (B ≤ A)

/-- R400 to R403: the bitwise commands, bit by bit. -/
def Obligations.LogicCommands : Prop :=
  (decode 0x10#32 = .ok .and ∧ decode 0x11#32 = .ok .or ∧ decode 0x12#32 = .ok .xor ∧
    decode 0x13#32 = .ok .not) ∧
  ∀ s : State,
    let gives (i : Instr) (f : Bool → Bool → Bool) : Prop := ∃ y,
      exec i s = .next { s with y := y, c := false, tier := .none } ∧
        ∀ k < 128, y.getLsbD k = f (s.opa.getLsbD k) (s.opb.getLsbD k)
    gives .and (fun a b => a && b) ∧ gives .or (fun a b => a || b) ∧
    gives .xor (fun a b => a != b) ∧ gives .not (fun a _ => !a)

/-- R404 to R407: the shifts, with the amount u(B) mod 128; SRA floors. -/
def Obligations.ShiftCommands : Prop :=
  (decode 0x14#32 = .ok .sll ∧ decode 0x15#32 = .ok .srl ∧ decode 0x16#32 = .ok .sra) ∧
  ∀ s : State,
    let n := s.opb.toNat % 128
    (∃ y, exec .sll s = .next { s with y := y, c := false, tier := .none } ∧
      y.toNat = s.opa.toNat * 2 ^ n % 2 ^ 128) ∧
    (∃ y, exec .srl s = .next { s with y := y, c := false, tier := .none } ∧
      y.toNat = s.opa.toNat / 2 ^ n) ∧
    (∃ y, exec .sra s = .next { s with y := y, c := false, tier := .none } ∧
      y.toInt = s.opa.toInt / 2 ^ n)

/-- The limb-wise shifts give the results of SLL, SRL and SRA (R408, which the spec marks as its own inference,
"[derived: from rules R405 to R407]"). -/
def Obligations.LimbwiseShiftsGiveTheSameResults : Prop :=
  ∀ s t : State,
    (exec .sll s = .next t → t.y = shiftLeftByLimbs s.opa (s.opb.toNat % 128)) ∧
    (exec .srl s = .next t → t.y = shiftRightByLimbs s.opa (s.opb.toNat % 128)) ∧
    (exec .sra s = .next t → t.y = shiftArithByLimbs s.opa (s.opb.toNat % 128))

/-- R456, R501, R502: ZEXT64, NEG and SEXT64; the low limb survives a widening. -/
def Obligations.WideningAndNegateCommands : Prop :=
  (decode 0x18#32 = .ok .zext64 ∧ decode 0x40#32 = .ok .neg ∧ decode 0x41#32 = .ok .sext64) ∧
  ∀ s : State,
    (∃ y, exec .zext64 s = .next { s with y := y, c := false, tier := .none } ∧
      y.toNat = s.opa.toNat % 2 ^ 64) ∧
    (∃ y, exec .neg s = .next { s with y := y, c := false, tier := .none } ∧
      (y.toNat : Int) = (-(s.opa.toNat : Int)) % 2 ^ 128) ∧
    (∃ y, exec .sext64 s = .next { s with y := y, c := false, tier := .none } ∧
      y.toInt = (s.opa.toNat : Int).bmod (2 ^ 64) ∧ y.toNat % 2 ^ 64 = s.opa.toNat % 2 ^ 64)

/-- R250, R251: MUL and MUL64. -/
def Obligations.MultiplyCommands : Prop :=
  (decode 0x20#32 = .ok .mul ∧ decode 0x21#32 = .ok .mul64) ∧
  ∀ s : State,
    (∃ y, exec .mul s = .next { s with
        y := y, c := false,
        tier := if s.force128 = true then .t128
          else if s.opa.toNat < 2 ^ 64 ∧ s.opb.toNat < 2 ^ 64 then .t64 else .t128 } ∧
      y.toNat = s.opa.toNat * s.opb.toNat % 2 ^ 128) ∧
    (∃ y, exec .mul64 s = .next { s with y := y, c := false, tier := .t64 } ∧
      y.toNat = (s.opa.toNat % 2 ^ 64) * (s.opb.toNat % 2 ^ 64))

/-- The schoolbook primitive over 32-bit halves is the exact 64-bit product, and the limb-wise composition is
the low 128 bits of the 128-bit product (R252 and R253, which the spec marks as its own: "[derived: from
rule R251]", its carry bookkeeping from general knowledge; notes/assumptions/12.md). -/
def Obligations.SchoolbookMultiplierIsTheProduct : Prop :=
  (∀ a b : Word64, (mul64ByHalves a b).toNat = a.toNat * b.toNat) ∧
  (∀ a b : Word128, (mulByLimbs a b).toNat = a.toNat * b.toNat % 2 ^ 128)

/-- MUL of two patterns is the signed product of their signed values, wrapped, and the product of the
magnitudes with the sign of the operands' signs, wrapped (R503, which the spec marks as its own inference,
"[derived: from 00_scope.md rule R14 and 41_multiply.md rule R250]"). -/
def Obligations.MulIsTheSignedProduct : Prop :=
  ∀ s t : State, exec .mul s = .next t →
    let A := s.opa.toInt
    let B := s.opb.toInt
    t.y.toInt = (A * B).bmod (2 ^ 128) ∧
    t.y.toInt = ((if A < 0 ↔ B < 0 then 1 else -1) *
      ((A.natAbs * B.natAbs : Nat) : Int)).bmod (2 ^ 128)

/-- Each of the three division algorithms returns the floor quotient and the remainder, for every dividend and
divisor its selection admits (R306, which the spec marks as its own inference, "[derived: from rules R303 to
R305]"; R305's loop condition is from general knowledge, notes/assumptions/12.md). -/
def Obligations.EveryDividerTierIsFloorDivision : Prop :=
  ∀ a b : Nat, a < 2 ^ 128 → b < 2 ^ 128 → b ≠ 0 →
    (a < 2 ^ 64 → b < 2 ^ 64 → divmodTier .t64 a b = (a / b, a % b)) ∧
    (b < 2 ^ 32 → divmodTier .t96 a b = (a / b, a % b)) ∧
    divmodTier .t128 a b = (a / b, a % b)

/-- R300, R301: DIVU and REMU. -/
def Obligations.UnsignedDivideCommands : Prop :=
  (decode 0x30#32 = .ok .divu ∧ decode 0x31#32 = .ok .remu) ∧
  ∀ s : State,
    let A := s.opa.toNat
    let B := s.opb.toNat
    let t : Tier := if s.force128 = true then .t128
      else if A < 2 ^ 64 ∧ B < 2 ^ 64 then .t64 else if B < 2 ^ 32 then .t96 else .t128
    (B ≠ 0 →
      (∃ y z, exec .divu s = .next { s with y := y, z := z, c := false, tier := t } ∧
        y.toNat = A / B ∧ z.toNat = A % B) ∧
      (∃ y, exec .remu s = .next { s with y := y, c := false, tier := t } ∧ y.toNat = A % B)) ∧
    (B = 0 →
      exec .divu s =
        .next { s with faulted := true, cause := .divideByZero, faultcmd := 0x30#32 } ∧
      exec .remu s =
        .next { s with faulted := true, cause := .divideByZero, faultcmd := 0x31#32 })

/-- With Y and Z from one DIVU, ADD(MUL(Y, B), Z) = A, with no wrap (R307, which the spec marks as its own
inference, "[derived: from rules R250, R201 and R300]"). -/
def Obligations.DivisionIdentity : Prop :=
  ∀ s t m r : State, s.opb.toNat ≠ 0 → exec .divu s = .next t →
    exec .mul { s with opa := t.y } = .next m →
    exec .add { s with opa := m.y, opb := t.z } = .next r →
    r.y = s.opa ∧ r.c = false ∧ t.y.toNat * s.opb.toNat + t.z.toNat = s.opa.toNat

/-- R510, R511: DIVS and REMS, truncating toward zero, MIN128 / -1 wrapping. -/
def Obligations.SignedDivideCommands : Prop :=
  (decode 0x32#32 = .ok .divs ∧ decode 0x33#32 = .ok .rems) ∧
  ∀ s : State,
    let A := s.opa.toInt
    let B := s.opb.toInt
    let t : Tier := if s.force128 = true then .t128
      else if A.natAbs < 2 ^ 64 ∧ B.natAbs < 2 ^ 64 then .t64
      else if B.natAbs < 2 ^ 32 then .t96 else .t128
    (s.opb.toNat ≠ 0 →
      (∃ y z, exec .divs s = .next { s with y := y, z := z, c := false, tier := t } ∧
        y.toInt = (A.tdiv B).bmod (2 ^ 128) ∧ z.toInt = A.tmod B) ∧
      (∃ y, exec .rems s = .next { s with y := y, c := false, tier := t } ∧
        y.toInt = A.tmod B)) ∧
    (s.opb.toNat = 0 →
      exec .divs s =
        .next { s with faulted := true, cause := .divideByZero, faultcmd := 0x32#32 } ∧
      exec .rems s =
        .next { s with faulted := true, cause := .divideByZero, faultcmd := 0x33#32 })

/-- A plus its negation is 0; the signed division identity, MIN128 / -1 included; and the remainder's size
and sign (R512, which the spec marks as its own inference, "[derived: from rules R501, R503, R509 and
R510]"). -/
def Obligations.SignedDivisionLaws : Prop :=
  (∀ s n t : State, exec .neg s = .next n → exec .add { s with opb := n.y } = .next t →
    t.y.toNat = 0) ∧
  ∀ s t m r : State, s.opb.toNat ≠ 0 → exec .divs s = .next t →
    exec .mul { s with opa := t.y } = .next m →
    exec .add { s with opa := m.y, opb := t.z } = .next r →
    r.y = s.opa ∧ t.z.toInt.natAbs < s.opb.toInt.natAbs ∧
    (t.z.toInt = 0 ∨ (t.z.toInt < 0 ↔ s.opa.toInt < 0))

/-- R551, R552, R556, R557: the FInt commands without a divide or a rescale, modulo 2^64. -/
def Obligations.FIntAddCommands : Prop :=
  (decode 0x60#32 = .ok .fxadd64 ∧ decode 0x61#32 = .ok .fxsub64 ∧
    decode 0x65#32 = .ok .fxneg64 ∧ decode 0x66#32 = .ok .fxfromint64) ∧
  ∀ s : State,
    let a := (s.opa.toNat : Int).bmod (2 ^ 64)
    let b := (s.opb.toNat : Int).bmod (2 ^ 64)
    let gives (i : Instr) (r : Int) : Prop := ∃ y,
      exec i s = .next { s with y := y, c := false, tier := .none } ∧ y.toInt = r.bmod (2 ^ 64)
    gives .fxadd64 (a + b) ∧ gives .fxsub64 (a - b) ∧ gives .fxneg64 (-a) ∧
    gives .fxfromint64 (a * 4096)

/-- R553: FXMUL64: the product wraps at 64 bits and the rescale floors. -/
def Obligations.FIntMultiplyCommand : Prop :=
  decode 0x62#32 = .ok .fxmul64 ∧
  ∀ s : State,
    let a := (s.opa.toNat : Int).bmod (2 ^ 64)
    let b := (s.opb.toNat : Int).bmod (2 ^ 64)
    ∃ y, exec .fxmul64 s = .next { s with y := y, c := false, tier := .none } ∧
      y.toInt = (a * b).bmod (2 ^ 64) / 4096

/-- R554, R555: FXDIV64 and FXMOD64; the prescale wraps, the divide truncates, MIN64 / -1 wraps; only
B[63:0] is tested for zero. -/
def Obligations.FIntDivideCommands : Prop :=
  (decode 0x63#32 = .ok .fxdiv64 ∧ decode 0x64#32 = .ok .fxmod64) ∧
  ∀ s : State,
    let a := (s.opa.toNat : Int).bmod (2 ^ 64)
    let b := (s.opb.toNat : Int).bmod (2 ^ 64)
    (s.opb.toNat % 2 ^ 64 ≠ 0 →
      (∃ y, exec .fxdiv64 s = .next { s with y := y, c := false, tier := .none } ∧
        y.toInt = (((a * 4096).bmod (2 ^ 64)).tdiv b).bmod (2 ^ 64)) ∧
      (∃ y, exec .fxmod64 s = .next { s with y := y, c := false, tier := .none } ∧
        y.toInt = a.tmod b)) ∧
    (s.opb.toNat % 2 ^ 64 = 0 →
      exec .fxdiv64 s =
        .next { s with faulted := true, cause := .divideByZero, faultcmd := 0x63#32 } ∧
      exec .fxmod64 s =
        .next { s with faulted := true, cause := .divideByZero, faultcmd := 0x64#32 })

/-- R560, R562: FXMUL128, its tier on the magnitudes, and FXFROMINT128. -/
def Obligations.FBigMultiplyCommands : Prop :=
  (decode 0x72#32 = .ok .fxmul128 ∧ decode 0x76#32 = .ok .fxfromint128) ∧
  ∀ s : State,
    let A := s.opa.toInt
    let B := s.opb.toInt
    (∃ y, exec .fxmul128 s = .next { s with
        y := y, c := false,
        tier := if s.force128 = true then .t128
          else if A.natAbs < 2 ^ 64 ∧ B.natAbs < 2 ^ 64 then .t64 else .t128 } ∧
      y.toInt = (A * B).bmod (2 ^ 128) / 4096) ∧
    (∃ y, exec .fxfromint128 s = .next { s with y := y, c := false, tier := .none } ∧
      y.toInt = (A * 4096).bmod (2 ^ 128))

/-- R561: FXDIV128: the prescaled dividend over the divisor, toward zero; Z is unchanged. -/
def Obligations.FBigDivideCommand : Prop :=
  decode 0x73#32 = .ok .fxdiv128 ∧
  ∀ s : State,
    let N := (s.opa.toInt * 4096).bmod (2 ^ 128)
    let B := s.opb.toInt
    let t : Tier := if s.force128 = true then .t128
      else if N.natAbs < 2 ^ 64 ∧ B.natAbs < 2 ^ 64 then .t64
      else if B.natAbs < 2 ^ 32 then .t96 else .t128
    (s.opb.toNat ≠ 0 →
      ∃ y, exec .fxdiv128 s = .next { s with y := y, c := false, tier := t } ∧
        y.toInt = (N.tdiv B).bmod (2 ^ 128)) ∧
    (s.opb.toNat = 0 →
      exec .fxdiv128 s =
        .next { s with faulted := true, cause := .divideByZero, faultcmd := 0x73#32 })

/-- Subtracting what was added gives the operand back, in both formats; multiplying raw 1 by raw 3 and
dividing by raw 3 gives 0, not 1, in both formats (R563, which the spec marks as its own inference,
"[derived: from rules R551 to R554 and R560, R561]"). -/
def Obligations.FixedPointLaws : Prop :=
  (∀ s t t' : State, exec .fxadd64 s = .next t → exec .fxsub64 { s with opa := t.y } = .next t' →
    t'.y.toNat % 2 ^ 64 = s.opa.toNat % 2 ^ 64) ∧
  (∀ s t t' : State, exec .add s = .next t → exec .sub { s with opa := t.y } = .next t' →
    t'.y = s.opa) ∧
  (∀ s : State, s.opa.toNat % 2 ^ 64 = 1 → s.opb.toNat % 2 ^ 64 = 3 →
    ∃ t t', exec .fxmul64 s = .next t ∧ exec .fxdiv64 { s with opa := t.y } = .next t' ∧
      t.y.toNat = 0 ∧ t'.y.toNat = 0) ∧
  (∀ s : State, s.opa.toNat = 1 → s.opb.toNat = 3 →
    ∃ t t', exec .fxmul128 s = .next t ∧ exec .fxdiv128 { s with opa := t.y } = .next t' ∧
      t.y.toNat = 0 ∧ t'.y.toNat = 0)
end

