-- ==== Sys2Proof/Laws/State.lean ====
section
/-! SUPPORT. One lemma per field for each named update of the state, and for the unit's state put apart
(Safety.lean): no later proof unfolds a record update. -/

namespace Sys2Proof.Machine

/-! ### complete -/

section
variable (s : State) (y : Word128) (c : Bool) (t : Tier)

@[simp] theorem State.complete_opa : (s.complete y c t).opa = s.opa := rfl
@[simp] theorem State.complete_opb : (s.complete y c t).opb = s.opb := rfl
@[simp] theorem State.complete_y : (s.complete y c t).y = y := rfl
@[simp] theorem State.complete_z : (s.complete y c t).z = s.z := rfl
@[simp] theorem State.complete_c : (s.complete y c t).c = c := rfl
@[simp] theorem State.complete_faulted : (s.complete y c t).faulted = s.faulted := rfl
@[simp] theorem State.complete_tier : (s.complete y c t).tier = t := rfl
@[simp] theorem State.complete_cause : (s.complete y c t).cause = s.cause := rfl
@[simp] theorem State.complete_force128 : (s.complete y c t).force128 = s.force128 := rfl
@[simp] theorem State.complete_faultcmd : (s.complete y c t).faultcmd = s.faultcmd := rfl
@[simp] theorem State.complete_rst : (s.complete y c t).rst = s.rst := rfl
@[simp] theorem State.complete_inputs : (s.complete y c t).inputs = s.inputs := rfl
@[simp] theorem State.complete_response : (s.complete y c t).response = s.response := rfl
@[simp] theorem State.complete_draws : (s.complete y c t).draws = s.draws := rfl

end

/-! ### completeDivide -/

section
variable (s : State) (q r : Word128) (t : Tier)

@[simp] theorem State.completeDivide_opa : (s.completeDivide q r t).opa = s.opa := rfl
@[simp] theorem State.completeDivide_opb : (s.completeDivide q r t).opb = s.opb := rfl
@[simp] theorem State.completeDivide_y : (s.completeDivide q r t).y = q := rfl
@[simp] theorem State.completeDivide_z : (s.completeDivide q r t).z = r := rfl
@[simp] theorem State.completeDivide_c : (s.completeDivide q r t).c = false := rfl
@[simp] theorem State.completeDivide_faulted : (s.completeDivide q r t).faulted = s.faulted := rfl
@[simp] theorem State.completeDivide_tier : (s.completeDivide q r t).tier = t := rfl
@[simp] theorem State.completeDivide_cause : (s.completeDivide q r t).cause = s.cause := rfl
@[simp] theorem State.completeDivide_force128 : (s.completeDivide q r t).force128 = s.force128 := rfl
@[simp] theorem State.completeDivide_faultcmd : (s.completeDivide q r t).faultcmd = s.faultcmd := rfl
@[simp] theorem State.completeDivide_rst : (s.completeDivide q r t).rst = s.rst := rfl
@[simp] theorem State.completeDivide_inputs : (s.completeDivide q r t).inputs = s.inputs := rfl
@[simp] theorem State.completeDivide_response : (s.completeDivide q r t).response = s.response := rfl
@[simp] theorem State.completeDivide_draws : (s.completeDivide q r t).draws = s.draws := rfl

end

/-! ### completeNothing -/

section
variable (s : State)

@[simp] theorem State.completeNothing_opa : (s.completeNothing).opa = s.opa := rfl
@[simp] theorem State.completeNothing_opb : (s.completeNothing).opb = s.opb := rfl
@[simp] theorem State.completeNothing_y : (s.completeNothing).y = s.y := rfl
@[simp] theorem State.completeNothing_z : (s.completeNothing).z = s.z := rfl
@[simp] theorem State.completeNothing_c : (s.completeNothing).c = false := rfl
@[simp] theorem State.completeNothing_faulted : (s.completeNothing).faulted = s.faulted := rfl
@[simp] theorem State.completeNothing_tier : (s.completeNothing).tier = .none := rfl
@[simp] theorem State.completeNothing_cause : (s.completeNothing).cause = s.cause := rfl
@[simp] theorem State.completeNothing_force128 : (s.completeNothing).force128 = s.force128 := rfl
@[simp] theorem State.completeNothing_faultcmd : (s.completeNothing).faultcmd = s.faultcmd := rfl
@[simp] theorem State.completeNothing_rst : (s.completeNothing).rst = s.rst := rfl
@[simp] theorem State.completeNothing_inputs : (s.completeNothing).inputs = s.inputs := rfl
@[simp] theorem State.completeNothing_response : (s.completeNothing).response = s.response := rfl
@[simp] theorem State.completeNothing_draws : (s.completeNothing).draws = s.draws := rfl

end

/-! ### completeFInt -/

section
variable (s : State) (r : Word64)

@[simp] theorem State.completeFInt_opa : (s.completeFInt r).opa = s.opa := rfl
@[simp] theorem State.completeFInt_opb : (s.completeFInt r).opb = s.opb := rfl
@[simp] theorem State.completeFInt_y : (s.completeFInt r).y = sext128 r := rfl
@[simp] theorem State.completeFInt_z : (s.completeFInt r).z = s.z := rfl
@[simp] theorem State.completeFInt_c : (s.completeFInt r).c = false := rfl
@[simp] theorem State.completeFInt_faulted : (s.completeFInt r).faulted = s.faulted := rfl
@[simp] theorem State.completeFInt_tier : (s.completeFInt r).tier = .none := rfl
@[simp] theorem State.completeFInt_cause : (s.completeFInt r).cause = s.cause := rfl
@[simp] theorem State.completeFInt_force128 : (s.completeFInt r).force128 = s.force128 := rfl
@[simp] theorem State.completeFInt_faultcmd : (s.completeFInt r).faultcmd = s.faultcmd := rfl
@[simp] theorem State.completeFInt_rst : (s.completeFInt r).rst = s.rst := rfl
@[simp] theorem State.completeFInt_inputs : (s.completeFInt r).inputs = s.inputs := rfl
@[simp] theorem State.completeFInt_response : (s.completeFInt r).response = s.response := rfl
@[simp] theorem State.completeFInt_draws : (s.completeFInt r).draws = s.draws := rfl

end

/-! ### raise -/

section
variable (s : State) (e : Cause) (w : Word32)

@[simp] theorem State.raise_opa : (s.raise e w).opa = s.opa := rfl
@[simp] theorem State.raise_opb : (s.raise e w).opb = s.opb := rfl
@[simp] theorem State.raise_y : (s.raise e w).y = s.y := rfl
@[simp] theorem State.raise_z : (s.raise e w).z = s.z := rfl
@[simp] theorem State.raise_c : (s.raise e w).c = s.c := rfl
@[simp] theorem State.raise_faulted : (s.raise e w).faulted = true := rfl
@[simp] theorem State.raise_tier : (s.raise e w).tier = s.tier := rfl
@[simp] theorem State.raise_cause : (s.raise e w).cause = e := rfl
@[simp] theorem State.raise_force128 : (s.raise e w).force128 = s.force128 := rfl
@[simp] theorem State.raise_faultcmd : (s.raise e w).faultcmd = w := rfl
@[simp] theorem State.raise_rst : (s.raise e w).rst = s.rst := rfl
@[simp] theorem State.raise_inputs : (s.raise e w).inputs = s.inputs := rfl
@[simp] theorem State.raise_response : (s.raise e w).response = s.response := rfl
@[simp] theorem State.raise_draws : (s.raise e w).draws = s.draws := rfl

end

/-! ### resetUnit -/

section
variable (s : State)

@[simp] theorem State.resetUnit_opa : (s.resetUnit).opa = 0#128 := rfl
@[simp] theorem State.resetUnit_opb : (s.resetUnit).opb = 0#128 := rfl
@[simp] theorem State.resetUnit_y : (s.resetUnit).y = 0#128 := rfl
@[simp] theorem State.resetUnit_z : (s.resetUnit).z = 0#128 := rfl
@[simp] theorem State.resetUnit_c : (s.resetUnit).c = false := rfl
@[simp] theorem State.resetUnit_faulted : (s.resetUnit).faulted = false := rfl
@[simp] theorem State.resetUnit_tier : (s.resetUnit).tier = .none := rfl
@[simp] theorem State.resetUnit_cause : (s.resetUnit).cause = .none := rfl
@[simp] theorem State.resetUnit_force128 : (s.resetUnit).force128 = false := rfl
@[simp] theorem State.resetUnit_faultcmd : (s.resetUnit).faultcmd = 0#32 := rfl
@[simp] theorem State.resetUnit_rst : (s.resetUnit).rst = s.rst := rfl
@[simp] theorem State.resetUnit_inputs : (s.resetUnit).inputs = s.inputs := rfl
@[simp] theorem State.resetUnit_response : (s.resetUnit).response = s.response := rfl
@[simp] theorem State.resetUnit_draws : (s.resetUnit).draws = s.draws := rfl

end

/-! ### setRst -/

section
variable (s : State) (b : Bool)

@[simp] theorem State.setRst_opa : (s.setRst b).opa = s.opa := rfl
@[simp] theorem State.setRst_opb : (s.setRst b).opb = s.opb := rfl
@[simp] theorem State.setRst_y : (s.setRst b).y = s.y := rfl
@[simp] theorem State.setRst_z : (s.setRst b).z = s.z := rfl
@[simp] theorem State.setRst_c : (s.setRst b).c = s.c := rfl
@[simp] theorem State.setRst_faulted : (s.setRst b).faulted = s.faulted := rfl
@[simp] theorem State.setRst_tier : (s.setRst b).tier = s.tier := rfl
@[simp] theorem State.setRst_cause : (s.setRst b).cause = s.cause := rfl
@[simp] theorem State.setRst_force128 : (s.setRst b).force128 = s.force128 := rfl
@[simp] theorem State.setRst_faultcmd : (s.setRst b).faultcmd = s.faultcmd := rfl
@[simp] theorem State.setRst_rst : (s.setRst b).rst = b := rfl
@[simp] theorem State.setRst_inputs : (s.setRst b).inputs = s.inputs := rfl
@[simp] theorem State.setRst_response : (s.setRst b).response = s.response := rfl
@[simp] theorem State.setRst_draws : (s.setRst b).draws = s.draws := rfl

end

/-! ### withInputs -/

section
variable (s : State) (es : List PortEvent)

@[simp] theorem State.withInputs_opa : (s.withInputs es).opa = s.opa := rfl
@[simp] theorem State.withInputs_opb : (s.withInputs es).opb = s.opb := rfl
@[simp] theorem State.withInputs_y : (s.withInputs es).y = s.y := rfl
@[simp] theorem State.withInputs_z : (s.withInputs es).z = s.z := rfl
@[simp] theorem State.withInputs_c : (s.withInputs es).c = s.c := rfl
@[simp] theorem State.withInputs_faulted : (s.withInputs es).faulted = s.faulted := rfl
@[simp] theorem State.withInputs_tier : (s.withInputs es).tier = s.tier := rfl
@[simp] theorem State.withInputs_cause : (s.withInputs es).cause = s.cause := rfl
@[simp] theorem State.withInputs_force128 : (s.withInputs es).force128 = s.force128 := rfl
@[simp] theorem State.withInputs_faultcmd : (s.withInputs es).faultcmd = s.faultcmd := rfl
@[simp] theorem State.withInputs_rst : (s.withInputs es).rst = s.rst := rfl
@[simp] theorem State.withInputs_inputs : (s.withInputs es).inputs = es := rfl
@[simp] theorem State.withInputs_response : (s.withInputs es).response = s.response := rfl
@[simp] theorem State.withInputs_draws : (s.withInputs es).draws = s.draws := rfl

end

/-! ### respond -/

section
variable (s : State) (r : Response)

@[simp] theorem State.respond_opa : (s.respond r).opa = s.opa := rfl
@[simp] theorem State.respond_opb : (s.respond r).opb = s.opb := rfl
@[simp] theorem State.respond_y : (s.respond r).y = s.y := rfl
@[simp] theorem State.respond_z : (s.respond r).z = s.z := rfl
@[simp] theorem State.respond_c : (s.respond r).c = s.c := rfl
@[simp] theorem State.respond_faulted : (s.respond r).faulted = s.faulted := rfl
@[simp] theorem State.respond_tier : (s.respond r).tier = s.tier := rfl
@[simp] theorem State.respond_cause : (s.respond r).cause = s.cause := rfl
@[simp] theorem State.respond_force128 : (s.respond r).force128 = s.force128 := rfl
@[simp] theorem State.respond_faultcmd : (s.respond r).faultcmd = s.faultcmd := rfl
@[simp] theorem State.respond_rst : (s.respond r).rst = s.rst := rfl
@[simp] theorem State.respond_inputs : (s.respond r).inputs = s.inputs := rfl
@[simp] theorem State.respond_response : (s.respond r).response = r := rfl
@[simp] theorem State.respond_draws : (s.respond r).draws = s.draws := rfl

end

/-! ### refuseRead -/

section
variable (s : State)

@[simp] theorem State.refuseRead_opa : (s.refuseRead).opa = s.opa := rfl
@[simp] theorem State.refuseRead_opb : (s.refuseRead).opb = s.opb := rfl
@[simp] theorem State.refuseRead_y : (s.refuseRead).y = s.y := rfl
@[simp] theorem State.refuseRead_z : (s.refuseRead).z = s.z := rfl
@[simp] theorem State.refuseRead_c : (s.refuseRead).c = s.c := rfl
@[simp] theorem State.refuseRead_faulted : (s.refuseRead).faulted = s.faulted := rfl
@[simp] theorem State.refuseRead_tier : (s.refuseRead).tier = s.tier := rfl
@[simp] theorem State.refuseRead_cause : (s.refuseRead).cause = s.cause := rfl
@[simp] theorem State.refuseRead_force128 : (s.refuseRead).force128 = s.force128 := rfl
@[simp] theorem State.refuseRead_faultcmd : (s.refuseRead).faultcmd = s.faultcmd := rfl
@[simp] theorem State.refuseRead_rst : (s.refuseRead).rst = s.rst := rfl
@[simp] theorem State.refuseRead_inputs : (s.refuseRead).inputs = s.inputs := rfl
@[simp] theorem State.refuseRead_response : (s.refuseRead).response = .readError (Config.refusedReadData s.draws) := rfl
@[simp] theorem State.refuseRead_draws : (s.refuseRead).draws = s.draws + 1 := rfl

end

/-! ### setOpa -/

section
variable (s : State) (v : Word128)

@[simp] theorem State.setOpa_opa : (s.setOpa v).opa = v := rfl
@[simp] theorem State.setOpa_opb : (s.setOpa v).opb = s.opb := rfl
@[simp] theorem State.setOpa_y : (s.setOpa v).y = s.y := rfl
@[simp] theorem State.setOpa_z : (s.setOpa v).z = s.z := rfl
@[simp] theorem State.setOpa_c : (s.setOpa v).c = s.c := rfl
@[simp] theorem State.setOpa_faulted : (s.setOpa v).faulted = s.faulted := rfl
@[simp] theorem State.setOpa_tier : (s.setOpa v).tier = s.tier := rfl
@[simp] theorem State.setOpa_cause : (s.setOpa v).cause = s.cause := rfl
@[simp] theorem State.setOpa_force128 : (s.setOpa v).force128 = s.force128 := rfl
@[simp] theorem State.setOpa_faultcmd : (s.setOpa v).faultcmd = s.faultcmd := rfl
@[simp] theorem State.setOpa_rst : (s.setOpa v).rst = s.rst := rfl
@[simp] theorem State.setOpa_inputs : (s.setOpa v).inputs = s.inputs := rfl
@[simp] theorem State.setOpa_response : (s.setOpa v).response = s.response := rfl
@[simp] theorem State.setOpa_draws : (s.setOpa v).draws = s.draws := rfl

end

/-! ### setOpb -/

section
variable (s : State) (v : Word128)

@[simp] theorem State.setOpb_opa : (s.setOpb v).opa = s.opa := rfl
@[simp] theorem State.setOpb_opb : (s.setOpb v).opb = v := rfl
@[simp] theorem State.setOpb_y : (s.setOpb v).y = s.y := rfl
@[simp] theorem State.setOpb_z : (s.setOpb v).z = s.z := rfl
@[simp] theorem State.setOpb_c : (s.setOpb v).c = s.c := rfl
@[simp] theorem State.setOpb_faulted : (s.setOpb v).faulted = s.faulted := rfl
@[simp] theorem State.setOpb_tier : (s.setOpb v).tier = s.tier := rfl
@[simp] theorem State.setOpb_cause : (s.setOpb v).cause = s.cause := rfl
@[simp] theorem State.setOpb_force128 : (s.setOpb v).force128 = s.force128 := rfl
@[simp] theorem State.setOpb_faultcmd : (s.setOpb v).faultcmd = s.faultcmd := rfl
@[simp] theorem State.setOpb_rst : (s.setOpb v).rst = s.rst := rfl
@[simp] theorem State.setOpb_inputs : (s.setOpb v).inputs = s.inputs := rfl
@[simp] theorem State.setOpb_response : (s.setOpb v).response = s.response := rfl
@[simp] theorem State.setOpb_draws : (s.setOpb v).draws = s.draws := rfl

end

/-! ### setForce128 -/

section
variable (s : State) (b : Bool)

@[simp] theorem State.setForce128_opa : (s.setForce128 b).opa = s.opa := rfl
@[simp] theorem State.setForce128_opb : (s.setForce128 b).opb = s.opb := rfl
@[simp] theorem State.setForce128_y : (s.setForce128 b).y = s.y := rfl
@[simp] theorem State.setForce128_z : (s.setForce128 b).z = s.z := rfl
@[simp] theorem State.setForce128_c : (s.setForce128 b).c = s.c := rfl
@[simp] theorem State.setForce128_faulted : (s.setForce128 b).faulted = s.faulted := rfl
@[simp] theorem State.setForce128_tier : (s.setForce128 b).tier = s.tier := rfl
@[simp] theorem State.setForce128_cause : (s.setForce128 b).cause = s.cause := rfl
@[simp] theorem State.setForce128_force128 : (s.setForce128 b).force128 = b := rfl
@[simp] theorem State.setForce128_faultcmd : (s.setForce128 b).faultcmd = s.faultcmd := rfl
@[simp] theorem State.setForce128_rst : (s.setForce128 b).rst = s.rst := rfl
@[simp] theorem State.setForce128_inputs : (s.setForce128 b).inputs = s.inputs := rfl
@[simp] theorem State.setForce128_response : (s.setForce128 b).response = s.response := rfl
@[simp] theorem State.setForce128_draws : (s.setForce128 b).draws = s.draws := rfl

end

/-! ### The unit's state does not hold the model's own fields -/

section
variable (s : State)

@[simp] theorem State.unit_opa : s.unit.opa = s.opa := rfl
@[simp] theorem State.unit_opb : s.unit.opb = s.opb := rfl
@[simp] theorem State.unit_y : s.unit.y = s.y := rfl
@[simp] theorem State.unit_z : s.unit.z = s.z := rfl
@[simp] theorem State.unit_c : s.unit.c = s.c := rfl
@[simp] theorem State.unit_faulted : s.unit.faulted = s.faulted := rfl
@[simp] theorem State.unit_tier : s.unit.tier = s.tier := rfl
@[simp] theorem State.unit_cause : s.unit.cause = s.cause := rfl
@[simp] theorem State.unit_force128 : s.unit.force128 = s.force128 := rfl
@[simp] theorem State.unit_faultcmd : s.unit.faultcmd = s.faultcmd := rfl
@[simp] theorem State.unit_rst : s.unit.rst = false := rfl
@[simp] theorem State.unit_inputs : s.unit.inputs = [] := rfl
@[simp] theorem State.unit_response : s.unit.response = .none := rfl
@[simp] theorem State.unit_draws : s.unit.draws = 0 := rfl

@[simp] theorem State.unit_setRst (b : Bool) : (s.setRst b).unit = s.unit := rfl
@[simp] theorem State.unit_withInputs (es : List PortEvent) : (s.withInputs es).unit = s.unit := rfl
@[simp] theorem State.unit_respond (r : Response) : (s.respond r).unit = s.unit := rfl
@[simp] theorem State.unit_refuseRead : s.refuseRead.unit = s.unit := rfl
@[simp] theorem State.unit_resetUnit : s.resetUnit.unit = State.reset := rfl

end

end Sys2Proof.Machine
end

