-- ==== Sys2Proof/Laws/Ops.lean ====
section
/-! SUPPORT. For each shared operation, once, everything it can do. -/

namespace Sys2Proof.Machine

/-! ### Operands -/

/-- NEG is the two's-complement negation (R14). -/
theorem negate_eq_neg {w : Nat} (v : BitVec w) : negate v = -v := by
  rw [negate, BitVec.neg_eq_not_add]
  apply BitVec.eq_of_toNat_eq
  simp

/-- u(MAG(v)) = |s(v)|, the minimum value included (R14). -/
theorem magnitude_toNat {w : Nat} (v : BitVec w) : (magnitude v).toNat = v.toInt.natAbs := by
  have hlt := v.isLt
  rw [BitVec.toInt_eq_msb_cond, magnitude]
  split
  next h =>
    have hpos : 0 < v.toNat := by
      rcases Nat.eq_zero_or_pos v.toNat with h0 | h0
      · have : v = 0#w := BitVec.eq_of_toNat_eq (by simpa using h0)
        subst this
        simp at h
      · exact h0
    rw [negate_eq_neg, BitVec.toNat_neg, Nat.mod_eq_of_lt (by omega)]
    omega
  next h => rfl

theorem lower_toNat (v : Word128) : (lower v).toNat = v.toNat % 2 ^ 64 := by
  simp [lower]

theorem upper_toNat (v : Word128) : (upper v).toNat = v.toNat / 2 ^ 64 := by
  have := v.isLt
  simp [upper, Nat.shiftRight_eq_div_pow]
  omega

theorem shiftAmount_eq (s : State) : shiftAmount s = s.opb.toNat % 128 := by
  simp [shiftAmount]

/-! ### Exceptions -/

@[simp] theorem unlessZeroDivisor_zero (i : Instr) (s t : State) :
    unlessZeroDivisor i 0 s t = .next (s.raise .divideByZero (encode i)) := rfl

theorem unlessZeroDivisor_pos {i : Instr} {d : Nat} (h : d ≠ 0) (s t : State) :
    unlessZeroDivisor i d s t = .next t := if_neg h

/-- The divisor check ends in the exception or in the completed command. -/
theorem unlessZeroDivisor_cases {i : Instr} {d : Nat} {s done t : State}
    (h : unlessZeroDivisor i d s done = .next t) :
    (d = 0 ∧ t = s.raise .divideByZero (encode i)) ∨ (d ≠ 0 ∧ t = done) := by
  unfold unlessZeroDivisor at h
  split at h
  next hd => exact .inl ⟨hd, by injection h with h; exact h.symm⟩
  next hd => exact .inr ⟨hd, by injection h with h; exact h.symm⟩

/-! ### The port -/

/-- Which accesses the port accepts (R104). -/
theorem accepted_iff (off : BitVec 8) (n : Nat) :
    accepted off n = true ↔
      (n = 4 ∧ off.toNat % 4 = 0) ∨ (n = 8 ∧ off.toNat % 8 = 0 ∧ off.toNat ≤ 0x38) := by
  simp [accepted, and_assoc]

/-- An accepted write outside CMD and CTRL stores in OPA, stores in OPB, or does nothing. -/
theorem storeAccepted_cases (s : State) (off : BitVec 8) (n : Nat) (d : Word64) :
    (off.toNat < 0x10 ∧ storeAccepted s off n d = s.setOpa (storeWord s.opa off n d)) ∨
    (0x10 ≤ off.toNat ∧ off.toNat < 0x20 ∧
      storeAccepted s off n d = s.setOpb (storeWord s.opb off n d)) ∨
    (0x20 ≤ off.toNat ∧ storeAccepted s off n d = s) := by
  unfold storeAccepted
  split
  next h => exact .inl ⟨h, rfl⟩
  next h =>
    split
    next h' => exact .inr (.inl ⟨by omega, h', rfl⟩)
    next h' => exact .inr (.inr ⟨by omega, rfl⟩)

/-- A write to CTRL resets the unit or sets FORCE128. -/
theorem writeCtrl_cases (s : State) (w : Word32) :
    (w.getLsbD 1 = true ∧ writeCtrl s w = s.resetUnit) ∨
    (w.getLsbD 1 = false ∧ writeCtrl s w = s.setForce128 (w.getLsbD 0)) := by
  unfold writeCtrl
  split
  next h => exact .inl ⟨h, rfl⟩
  next h => exact .inr ⟨by simpa using h, rfl⟩

/-- Bit m of a register after one of its digits is written. -/
theorem getLsbD_setDigit (v : Word128) (k : Nat) (w : Word32) (m : Nat) (hm : m < 128) :
    (setDigit v k w).getLsbD m =
      if 32 * k ≤ m ∧ m < 32 * k + 32 then w.getLsbD (m - 32 * k) else v.getLsbD m := by
  have ones : ∀ i, (0xFFFF_FFFF#32).getLsbD i = decide (i < 32) := by
    intro i
    rw [show (0xFFFF_FFFF#32) = BitVec.allOnes 32 from rfl, BitVec.getLsbD_allOnes]
  simp only [setDigit, BitVec.getLsbD_or, BitVec.getLsbD_and, BitVec.getLsbD_not,
    BitVec.getLsbD_shiftLeft, BitVec.getLsbD_setWidth, ones, hm, decide_true, Bool.true_and]
  by_cases h1 : m < 32 * k
  · simp [h1]
  · by_cases h2 : m - 32 * k < 32
    · have : m - 32 * k < 128 := by omega
      have h3 : 32 * k ≤ m ∧ m < 32 * k + 32 := by omega
      simp [h1, h2, h3, this]
    · have h3 : ¬(32 * k ≤ m ∧ m < 32 * k + 32) := by omega
      simp [h2, h3, BitVec.getLsbD_of_ge w (m - 32 * k) (by omega)]

/-- Bit m of a register after one of its limbs is written. -/
theorem getLsbD_setLimb (v : Word128) (k : Nat) (w : Word64) (m : Nat) (hm : m < 128) :
    (setLimb v k w).getLsbD m =
      if 64 * k ≤ m ∧ m < 64 * k + 64 then w.getLsbD (m - 64 * k) else v.getLsbD m := by
  have ones : ∀ i, (0xFFFF_FFFF_FFFF_FFFF#64).getLsbD i = decide (i < 64) := by
    intro i
    rw [show (0xFFFF_FFFF_FFFF_FFFF#64) = BitVec.allOnes 64 from rfl, BitVec.getLsbD_allOnes]
  simp only [setLimb, BitVec.getLsbD_or, BitVec.getLsbD_and, BitVec.getLsbD_not,
    BitVec.getLsbD_shiftLeft, BitVec.getLsbD_setWidth, ones, hm, decide_true, Bool.true_and]
  by_cases h1 : m < 64 * k
  · simp [h1]
  · by_cases h2 : m - 64 * k < 64
    · have : m - 64 * k < 128 := by omega
      have h3 : 64 * k ≤ m ∧ m < 64 * k + 64 := by omega
      simp [h1, h2, h3, this]
    · have h3 : ¬(64 * k ≤ m ∧ m < 64 * k + 64) := by omega
      simp [h2, h3, BitVec.getLsbD_of_ge w (m - 64 * k) (by omega)]

end Sys2Proof.Machine
end

