-- ==== Sys2Proof/Laws/Arith.lean ====
section
/-! SUPPORT. What the comparators, the widenings and the scale unit's shifts compute, on integers. -/

namespace Sys2Proof.Machine

/-- s(v) from u(v) (R11). -/
theorem toInt_eq_bmod {w : Nat} (v : BitVec w) : v.toInt = (v.toNat : Int).bmod (2 ^ w) :=
  BitVec.toInt_eq_toNat_bmod v

/-- s(bv_N(n)) for a natural number n (R10). -/
theorem ofNat_toInt {w : Nat} (n : Nat) : (BitVec.ofNat w n).toInt = (n : Int).bmod (2 ^ w) := by
  rw [toInt_eq_bmod, BitVec.toNat_ofNat, Int.natCast_mod]
  exact Int.emod_bmod _ _

/-- The signed value of the low limb. -/
theorem lower_toInt (v : Word128) : (lower v).toInt = (v.toNat : Int).bmod (2 ^ 64) := by
  rw [toInt_eq_bmod, lower_toNat, Int.natCast_mod]
  exact Int.emod_bmod _ _

/-- Zero extension keeps the unsigned value (R11). -/
theorem zext128_toNat (v : Word64) : (zext128 v).toNat = v.toNat := by
  have := v.isLt
  rw [zext128, BitVec.toNat_setWidth, Nat.mod_eq_of_lt]
  omega

/-- Sign extension keeps the signed value (R11). -/
theorem sext128_toInt (v : Word64) : (sext128 v).toInt = v.toInt :=
  BitVec.toInt_signExtend_of_le (by decide)

/-- The result of a compare is 1 or 0 (R12). -/
theorem boolWord_toNat (p : Bool) : (boolWord p).toNat = if p then 1 else 0 := by
  cases p <;> rfl

/-- The lexicographic comparator is u(A) < u(B) (R449). -/
theorem ltu_iff (a b : Word128) : ltu a b = true ↔ a.toNat < b.toNat := by
  unfold ltu
  simp only [Bool.or_eq_true, Bool.and_eq_true, decide_eq_true_eq, beq_iff_eq]
  have := a.isLt
  have := b.isLt
  rw [← BitVec.toNat_inj, upper_toNat, upper_toNat, lower_toNat, lower_toNat]
  omega

/-- The signed comparator is s(A) < s(B) (R508). -/
theorem lts_iff (a b : Word128) : lts a b = true ↔ a.toInt < b.toInt := by
  unfold lts
  simp only [Bool.or_eq_true, Bool.and_eq_true, beq_iff_eq, ltu_iff]
  rw [BitVec.toInt_eq_msb_cond, BitVec.toInt_eq_msb_cond]
  have := a.isLt
  have := b.isLt
  cases a.msb <;> cases b.msb <;> simp <;> omega

/-- The rescale floors (R558). -/
theorem rescale_toInt {w : Nat} (v : BitVec w) : (rescale v).toInt = v.toInt / 4096 := by
  rw [rescale, BitVec.toInt_sshiftRight, Int.shiftRight_eq_div_pow]
  rfl

/-- The prescale wraps (R558). -/
theorem prescale_toInt {w : Nat} (v : BitVec w) :
    (prescale v).toInt = (v.toInt * 4096).bmod (2 ^ w) := by
  rw [prescale, toInt_eq_bmod, BitVec.toNat_shiftLeft, Nat.shiftLeft_eq, toInt_eq_bmod v,
    Int.natCast_mod, Int.emod_bmod, Int.bmod_mul_bmod]
  rfl

end Sys2Proof.Machine
end

