-- ==== Sys2Proof/Laws/Divider.lean ====
section
/-! SUPPORT. What one output digit of the divider's two digit loops does: the digit of tier T96 (R304)
and the trial, correction and add-back of tier T128 (R305). -/

namespace Sys2Proof.Machine

theorem natDigit_lt (v i : Nat) : natDigit v i < 2 ^ 32 := Nat.mod_lt _ (by decide)

@[simp] theorem digitSum_zero (f : Nat → Nat) : digitSum f 0 = 0 := rfl

theorem digitSum_succ (f : Nat → Nat) (k : Nat) :
    digitSum f (k + 1) = digitSum f k + f k * 2 ^ (32 * k) := rfl

theorem pow_digit_succ (k : Nat) : 2 ^ (32 * (k + 1)) = 2 ^ 32 * 2 ^ (32 * k) := by
  rw [← Nat.pow_add]; congr 1; omega

theorem digitSum_lt {f : Nat → Nat} {k : Nat} (h : ∀ i < k, f i < 2 ^ 32) :
    digitSum f k < 2 ^ (32 * k) := by
  induction k with
  | zero => simp
  | succ k ih =>
    have hk := h k (Nat.lt_succ_self k)
    have := ih fun i hi => h i (Nat.lt_succ_of_lt hi)
    have := Nat.mul_le_mul_right (2 ^ (32 * k)) (Nat.succ_le_of_lt hk)
    rw [digitSum_succ, pow_digit_succ]
    rw [Nat.succ_mul] at this
    omega

theorem digitSum_congr {f g : Nat → Nat} {k : Nat} (h : ∀ i < k, f i = g i) :
    digitSum f k = digitSum g k := by
  induction k with
  | zero => rfl
  | succ k ih =>
    rw [digitSum_succ, digitSum_succ, ih fun i hi => h i (Nat.lt_succ_of_lt hi),
      h k (Nat.lt_succ_self k)]

/-- The first k digits of a number are the number modulo β^k. -/
theorem digitSum_natDigit (v k : Nat) : digitSum (natDigit v) k = v % 2 ^ (32 * k) := by
  induction k with
  | zero => simp [Nat.mod_one]
  | succ k ih =>
    rw [digitSum_succ, ih, pow_digit_succ, Nat.mul_comm (2 ^ 32), Nat.mod_mul, natDigit,
      Nat.mul_comm (_ % _)]

/-- Two consecutive stretches of digits. -/
theorem digitSum_add (f : Nat → Nat) (j n : Nat) :
    digitSum f (j + n) = digitSum f j + digitSum (fun i => f (j + i)) n * 2 ^ (32 * j) := by
  induction n with
  | zero => simp
  | succ n ih =>
    rw [← Nat.add_assoc, digitSum_succ, ih, digitSum_succ, Nat.add_mul, Nat.mul_add 32, Nat.pow_add]
    ring

/-- One turn of the T96 loop divides the partial dividend: its quotient digit is below β and its partial
remainder below the divisor (R304's two side notes). -/
theorem t96_turn {a b i r : Nat} (hb : b < 2 ^ 32) (hr : r < b) :
    (2 ^ 32 * r + natDigit a i) / b < 2 ^ 32 ∧ (2 ^ 32 * r + natDigit a i) % b < b ∧
      2 ^ 32 * r + natDigit a i =
        (2 ^ 32 * r + natDigit a i) / b * b + (2 ^ 32 * r + natDigit a i) % b := by
  have hd := natDigit_lt a i
  refine ⟨?_, Nat.mod_lt _ (by omega), ?_⟩
  · rw [Nat.div_lt_iff_lt_mul (by omega)]
    have := Nat.mul_le_mul_right (2 ^ 32) (Nat.succ_le_of_lt hr)
    rw [Nat.succ_mul] at this
    omega
  · exact (Nat.div_add_mod' _ _).symm

/-- The correction loop keeps `num = qhat·v1 + rhat`, never goes below a quotient digit `Q` that each of its
tests is sound for, and with enough fuel ends where its test is false. -/
theorem knuthCorrect_spec {v1 v2 u2 num Q : Nat}
    (sound : ∀ q r, num = q * v1 + r → 2 ^ 32 * r + u2 < q * v2 → Q < q) :
    ∀ fuel q r, num = q * v1 + r → Q ≤ q → 2 ^ 32 ≤ r + fuel * v1 →
      ∃ r', num = knuthCorrect v1 v2 u2 fuel q r * v1 + r' ∧
        Q ≤ knuthCorrect v1 v2 u2 fuel q r ∧ knuthCorrect v1 v2 u2 fuel q r ≤ q ∧
        (knuthCorrect v1 v2 u2 fuel q r * v2 ≤ 2 ^ 32 * r' + u2 ∨ 2 ^ 32 ≤ r') := by
  intro fuel
  induction fuel with
  | zero =>
    intro q r hn hQ hf
    exact ⟨r, hn, hQ, Nat.le_refl _, Or.inr (by omega)⟩
  | succ fuel ih =>
    intro q r hn hQ hf
    rw [knuthCorrect]
    split
    next h =>
      have hlt := sound q r hn h.2
      have hq : q = (q - 1) + 1 := by omega
      have hn' : num = (q - 1) * v1 + (r + v1) := by
        rw [hn]; conv_lhs => rw [hq, Nat.succ_mul]
        omega
      have hf' : 2 ^ 32 ≤ r + v1 + fuel * v1 := by
        rw [Nat.succ_mul] at hf; omega
      obtain ⟨r', h1, h2, h3, h4⟩ := ih (q - 1) (r + v1) hn' (by omega) hf'
      exact ⟨r', h1, h2, by omega, h4⟩
    next h =>
      refine ⟨r, hn, hQ, Nat.le_refl _, ?_⟩
      by_cases hr : r < 2 ^ 32
      · exact Or.inl (Nat.le_of_not_lt fun hc => h ⟨hr, hc⟩)
      · exact Or.inr (by omega)

/-- Knuth's bound: with a normalised divisor and a partial remainder below β times the divisor, the trial
digit of R305 is the true quotient digit or one above it. -/
theorem knuthTrial_bounds {n j : Nat} {vn un : Nat → Nat} (hn : 1 ≤ n)
    (hv1 : 2 ^ 31 ≤ vn (n - 1)) (hv : ∀ i < n, vn i < 2 ^ 32) (hu : ∀ i ≤ n, un (j + i) < 2 ^ 32)
    (hU : digitSum (fun i => un (j + i)) (n + 1) < digitSum vn n * 2 ^ 32) :
    digitSum (fun i => un (j + i)) (n + 1) / digitSum vn n ≤ knuthTrial n vn un j ∧
      knuthTrial n vn un j * digitSum vn n ≤
        digitSum (fun i => un (j + i)) (n + 1) + digitSum vn n := by
  obtain ⟨n, rfl⟩ : ∃ m, n = m + 1 := ⟨n - 1, by omega⟩
  simp only [Nat.add_sub_cancel] at hv1
  set V := digitSum vn (n + 1) with hVdef
  set U := digitSum (fun i => un (j + i)) (n + 1 + 1) with hUdef
  -- the two leading digits of U and the leading digit of V
  have hVs : V = digitSum vn n + vn n * 2 ^ (32 * n) := digitSum_succ _ _
  have hUs : U = digitSum (fun i => un (j + i)) n +
      (2 ^ 32 * un (j + (n + 1)) + un (j + n)) * 2 ^ (32 * n) := by
    rw [hUdef, digitSum_succ, digitSum_succ, pow_digit_succ]; ring
  have hUlow : digitSum (fun i => un (j + i)) n < 2 ^ (32 * n) :=
    digitSum_lt fun i hi => hu i (by omega)
  have hP : 0 < 2 ^ (32 * n) := Nat.two_pow_pos _
  have hVpos : 0 < V := by
    have := Nat.mul_le_mul_right (2 ^ (32 * n)) hv1
    omega
  set num := 2 ^ 32 * un (j + (n + 1)) + un (j + n) with hnum
  set v1 := vn n with hv1def
  set Q := U / V with hQdef
  have hQV : Q * V ≤ U := Nat.div_mul_le_self U V
  -- the initial trial
  have hQB : Q ≤ 2 ^ 32 - 1 := by
    have : Q < 2 ^ 32 := (Nat.div_lt_iff_lt_mul hVpos).2 (by rw [Nat.mul_comm]; exact hU)
    omega
  have hQnum : Q * v1 ≤ num := by
    have h1 : Q * v1 * 2 ^ (32 * n) < (num + 1) * 2 ^ (32 * n) := by
      calc Q * v1 * 2 ^ (32 * n) = Q * (v1 * 2 ^ (32 * n)) := Nat.mul_assoc _ _ _
        _ ≤ Q * V := Nat.mul_le_mul_left _ (by omega)
        _ ≤ U := hQV
        _ < (num + 1) * 2 ^ (32 * n) := by rw [Nat.succ_mul]; omega
    exact Nat.le_of_lt_succ (Nat.lt_of_mul_lt_mul_right h1)
  have hQ0 : Q ≤ min (num / v1) (2 ^ 32 - 1) :=
    Nat.le_min.2 ⟨(Nat.le_div_iff_mul_le (by omega)).2 hQnum, hQB⟩
  have hq0 : min (num / v1) (2 ^ 32 - 1) * v1 ≤ num :=
    (Nat.le_div_iff_mul_le (by omega)).1 (Nat.min_le_left _ _)
  have hqB : min (num / v1) (2 ^ 32 - 1) ≤ 2 ^ 32 - 1 := Nat.min_le_right _ _
  set q0 := min (num / v1) (2 ^ 32 - 1) with hq0def
  have hn0 : num = q0 * v1 + (num - q0 * v1) := by omega
  have hfuel : 2 ^ 32 ≤ num - q0 * v1 + 2 * v1 := by omega
  have hunfold : knuthTrial (n + 1) vn un j =
      knuthCorrect v1 (if 2 ≤ n + 1 then vn (n + 1 - 2) else 0)
        (if 2 ≤ j + (n + 1) then un (j + (n + 1) - 2) else 0) 2 q0 (num - q0 * v1) := rfl
  rw [hunfold]
  clear hunfold
  clear_value q0 Q num v1 U V
  rcases Nat.eq_zero_or_pos n with h0 | hpos
  · -- a one-digit divisor: the test is never true and the trial is exact (D17)
    subst h0
    have hV1 : V = v1 := by rw [hVs]; simp
    have hU1 : U = num := by rw [hUs]; simp
    have hc : knuthCorrect v1 (if 2 ≤ 0 + 1 then vn (0 + 1 - 2) else 0)
        (if 2 ≤ j + (0 + 1) then un (j + (0 + 1) - 2) else 0) 2 q0 (num - q0 * v1) = q0 := by
      rw [knuthCorrect]; simp
    rw [hc, hV1, hU1]
    exact ⟨hQ0, Nat.le_add_right_of_le hq0⟩
  · obtain ⟨m, rfl⟩ : ∃ m, n = m + 1 := ⟨n - 1, by omega⟩
    have e1 : (if 2 ≤ m + 1 + 1 then vn (m + 1 + 1 - 2) else 0) = vn m := by
      rw [if_pos (by omega)]; rfl
    have e2 : (if 2 ≤ j + (m + 1 + 1) then un (j + (m + 1 + 1) - 2) else 0) = un (j + m) := by
      rw [if_pos (by omega)]; rfl
    rw [e1, e2]
    set P := 2 ^ (32 * m) with hPdef
    have hBP : 2 ^ (32 * (m + 1)) = 2 ^ 32 * P := pow_digit_succ m
    have hVs2 : V = digitSum vn m + (v1 * 2 ^ 32 + vn m) * P := by
      rw [hVs, hBP, digitSum_succ]; ring
    have hUs2 : U = digitSum (fun i => un (j + i)) m + (2 ^ 32 * num + un (j + m)) * P := by
      rw [hUs, hBP, digitSum_succ]; ring
    have hVlow : digitSum vn m < P := digitSum_lt fun i hi => hv i (by omega)
    have hUlow2 : digitSum (fun i => un (j + i)) m < P := digitSum_lt fun i hi => hu i (by omega)
    have sound : ∀ q r, num = q * v1 + r → 2 ^ 32 * r + un (j + m) < q * vn m → Q < q := by
      intro q r hq ht
      rw [hQdef, Nat.div_lt_iff_lt_mul hVpos]
      calc U < (2 ^ 32 * num + un (j + m) + 1) * P := by rw [Nat.succ_mul]; omega
        _ ≤ (q * (v1 * 2 ^ 32 + vn m)) * P := by
          refine Nat.mul_le_mul_right _ ?_
          rw [hq, Nat.mul_add, Nat.mul_add q, ← Nat.mul_assoc q, Nat.mul_comm (2 ^ 32)]; omega
        _ = q * ((v1 * 2 ^ 32 + vn m) * P) := Nat.mul_assoc _ _ _
        _ ≤ q * V := Nat.mul_le_mul_left _ (by omega)
    obtain ⟨r', h1, h2, h3, h4⟩ := knuthCorrect_spec sound 2 q0 _ hn0 hQ0 hfuel
    set q := knuthCorrect v1 (vn m) (un (j + m)) 2 q0 (num - q0 * v1) with hqdef
    clear_value q
    refine ⟨h2, ?_⟩
    have hqlt : q ≤ 2 ^ 32 := by omega
    have hv2 : vn m < 2 ^ 32 := hv m (by omega)
    have hexit : q * vn m ≤ 2 ^ 32 * r' + un (j + m) := by
      rcases h4 with h | h
      · exact h
      · calc q * vn m ≤ 2 ^ 32 * 2 ^ 32 := Nat.mul_le_mul hqlt (Nat.le_of_lt hv2)
          _ ≤ 2 ^ 32 * r' := Nat.mul_le_mul_left _ h
          _ ≤ _ := Nat.le_add_right _ _
    have hqP : q * P ≤ V := by
      calc q * P ≤ (v1 * 2 ^ 32 + vn m) * P := Nat.mul_le_mul_right _ (by omega)
        _ ≤ V := by omega
    calc q * V ≤ q * (P + (v1 * 2 ^ 32 + vn m) * P) := Nat.mul_le_mul_left _ (by omega)
      _ = (q * v1 * 2 ^ 32 + q * vn m) * P + q * P := by ring
      _ ≤ (q * v1 * 2 ^ 32 + (2 ^ 32 * r' + un (j + m))) * P + V :=
        Nat.add_le_add (Nat.mul_le_mul_right _ (by omega)) hqP
      _ = (2 ^ 32 * num + un (j + m)) * P + V := by rw [h1]; ring
      _ ≤ U + V := by omega

/-- One output digit of T128 is the exact quotient digit, and the digits written back are those of the exact
partial remainder: at most one add-back is needed (R305). -/
theorem knuthStep_spec {n j : Nat} {vn un : Nat → Nat} (hn : 1 ≤ n)
    (hv1 : 2 ^ 31 ≤ vn (n - 1)) (hv : ∀ i < n, vn i < 2 ^ 32) (hu : ∀ i ≤ n, un (j + i) < 2 ^ 32)
    (hU : digitSum (fun i => un (j + i)) (n + 1) < digitSum vn n * 2 ^ 32) :
    knuthStep n vn un j =
      (digitSum (fun i => un (j + i)) (n + 1) / digitSum vn n,
       fun k => if j ≤ k ∧ k ≤ j + n then
         natDigit (digitSum (fun i => un (j + i)) (n + 1) % digitSum vn n) (k - j) else un k) := by
  obtain ⟨hlo, hhi⟩ := knuthTrial_bounds hn hv1 hv hu hU
  simp only [knuthStep]
  generalize digitSum vn n = V at *
  generalize digitSum (fun i => un (j + i)) (n + 1) = U at *
  generalize knuthTrial n vn un j = q at *
  have hVpos : 0 < V := Nat.pos_of_ne_zero fun h => by rw [h, Nat.zero_mul] at hU; omega
  have hdm : V * (U / V) + U % V = U := Nat.div_add_mod U V
  have hmod := Nat.mod_lt U hVpos
  -- q is the quotient or one more
  rcases Nat.lt_or_ge (U / V) q with hlt | hge
  · have hq : q = U / V + 1 := by
      obtain ⟨p, rfl⟩ :=
        Nat.exists_eq_succ_of_ne_zero (Nat.ne_of_gt (Nat.lt_of_le_of_lt (Nat.zero_le _) hlt))
      have : p * V ≤ U := by rw [Nat.succ_mul] at hhi; omega
      have := (Nat.le_div_iff_mul_le hVpos).2 this
      omega
    have hT : (U : Int) - (q : Int) * (V : Int) = ((U % V : Nat) : Int) - (V : Int) := by
      have : (U : Int) = (V : Int) * ((U / V : Nat) : Int) + ((U % V : Nat) : Int) := by
        exact_mod_cast hdm.symm
      rw [hq, Nat.cast_succ]; linear_combination this
    have hneg : (U : Int) - (q : Int) * (V : Int) < 0 := by rw [hT]; omega
    rw [if_pos hneg, if_pos hneg, hT]
    simp only [hq, Nat.add_sub_cancel, Int.sub_add_cancel, Int.toNat_natCast]
  · have hq : q = U / V := by omega
    have hT : (U : Int) - (q : Int) * (V : Int) = ((U % V : Nat) : Int) := by
      have : (U : Int) = (V : Int) * ((U / V : Nat) : Int) + ((U % V : Nat) : Int) := by
        exact_mod_cast hdm.symm
      rw [hq]; linear_combination this
    have hneg : ¬ (U : Int) - (q : Int) * (V : Int) < 0 := by rw [hT]; omega
    rw [if_neg hneg, if_neg hneg, hT, hq]
    simp only [Int.toNat_natCast]

/-- The loop over the output digits leaves the quotient gathered in `q` and the remainder in the low digits
(R305). -/
theorem knuthLoop_spec {n : Nat} {vn : Nat → Nat} (hn : 1 ≤ n) (hv1 : 2 ^ 31 ≤ vn (n - 1))
    (hv : ∀ i < n, vn i < 2 ^ 32) :
    ∀ c un q, (∀ i, un i < 2 ^ 32) → digitSum un (c + n) < digitSum vn n * 2 ^ (32 * c) →
      (knuthLoop n vn c un q).1 = q + digitSum un (c + n) / digitSum vn n ∧
        digitSum (knuthLoop n vn c un q).2 n = digitSum un (c + n) % digitSum vn n := by
  have hVpos : 0 < digitSum vn n := by
    obtain ⟨m, rfl⟩ : ∃ m, n = m + 1 := ⟨n - 1, by omega⟩
    rw [Nat.add_sub_cancel] at hv1
    have hvm : 0 < vn m := by omega
    rw [digitSum_succ]
    exact Nat.lt_of_lt_of_le (Nat.mul_pos hvm (Nat.two_pow_pos (32 * m))) (Nat.le_add_left _ _)
  intro c
  induction c with
  | zero =>
    intro un q hu h
    rw [Nat.mul_zero, Nat.pow_zero, Nat.mul_one, Nat.zero_add] at h
    rw [Nat.zero_add, Nat.div_eq_of_lt h, Nat.mod_eq_of_lt h, knuthLoop]
    exact ⟨by rfl, by rfl⟩
  | succ j ih =>
    intro un q hu h
    have hW : digitSum un (j + 1 + n) =
        digitSum un j + digitSum (fun i => un (j + i)) (n + 1) * 2 ^ (32 * j) := by
      rw [show j + 1 + n = j + (n + 1) by omega, digitSum_add]
    have hlow : digitSum un j < 2 ^ (32 * j) := digitSum_lt fun i _ => hu i
    have hU : digitSum (fun i => un (j + i)) (n + 1) < digitSum vn n * 2 ^ 32 := by
      rw [hW, pow_digit_succ, ← Nat.mul_assoc] at h
      exact Nat.lt_of_mul_lt_mul_right (a := 2 ^ (32 * j)) (by omega)
    have hst := knuthStep_spec hn hv1 hv (fun i _ => hu (j + i)) hU
    simp only [knuthLoop]
    rw [hst]
    simp only []
    generalize hUe : digitSum (fun i => un (j + i)) (n + 1) = U at *
    generalize hVe : digitSum vn n = V at *
    have hVlt : V < 2 ^ (32 * n) := by rw [← hVe]; exact digitSum_lt hv
    have hmod := Nat.mod_lt U hVpos
    set un' : Nat → Nat :=
      fun k => if j ≤ k ∧ k ≤ j + n then natDigit (U % V) (k - j) else un k with hun'
    have hu' : ∀ i, un' i < 2 ^ 32 := by
      intro i
      simp only [hun']
      split
      · exact natDigit_lt _ _
      · exact hu i
    have hW' : digitSum un' (j + n) = digitSum un j + (U % V) * 2 ^ (32 * j) := by
      rw [digitSum_add]
      congr 1
      · apply digitSum_congr
        intro i hi
        simp only [hun']
        rw [if_neg]
        omega
      · congr 1
        rw [digitSum_congr (g := natDigit (U % V)), digitSum_natDigit, Nat.mod_eq_of_lt (by omega)]
        intro i hi
        simp only [hun']
        rw [if_pos (by omega)]
        congr 1
        omega
    have h1 : digitSum un' (j + n) < V * 2 ^ (32 * j) := by
      rw [hW']
      have := Nat.mul_le_mul_right (2 ^ (32 * j)) (Nat.succ_le_of_lt hmod)
      rw [Nat.succ_mul] at this
      omega
    obtain ⟨ih1, ih2⟩ := ih un' (q + U / V * 2 ^ (32 * j)) hu' h1
    have key : digitSum un (j + 1 + n) = V * (U / V * 2 ^ (32 * j)) + digitSum un' (j + n) := by
      rw [hW, hW']
      conv_lhs => rw [← Nat.div_add_mod U V]
      ring
    rw [ih1, ih2, key, Nat.mul_add_div hVpos, Nat.mul_add_mod]
    exact ⟨by omega, rfl⟩

/-- The T96 loop over k digits divides the partial remainder followed by those digits (R304). -/
theorem t96Loop_spec {a b : Nat} (hb : b < 2 ^ 32) :
    ∀ k q r, r < b →
      (t96Loop a b k q r).1 = q + (r * 2 ^ (32 * k) + a % 2 ^ (32 * k)) / b ∧
        (t96Loop a b k q r).2 = (r * 2 ^ (32 * k) + a % 2 ^ (32 * k)) % b := by
  intro k
  induction k with
  | zero =>
    intro q r hr
    rw [Nat.mul_zero, Nat.pow_zero, Nat.mul_one, Nat.mod_one, Nat.add_zero, Nat.div_eq_of_lt hr,
      Nat.mod_eq_of_lt hr, t96Loop]
    exact ⟨rfl, rfl⟩
  | succ i ih =>
    intro q r hr
    obtain ⟨_, h2, h3⟩ := t96_turn (a := a) (i := i) hb hr
    simp only [t96Loop]
    obtain ⟨i1, i2⟩ := ih (q + (2 ^ 32 * r + natDigit a i) / b * 2 ^ (32 * i)) _ h2
    have key : r * 2 ^ (32 * (i + 1)) + a % 2 ^ (32 * (i + 1)) =
        b * ((2 ^ 32 * r + natDigit a i) / b * 2 ^ (32 * i)) +
          ((2 ^ 32 * r + natDigit a i) % b * 2 ^ (32 * i) + a % 2 ^ (32 * i)) := by
      have e1 : r * 2 ^ (32 * (i + 1)) + a % 2 ^ (32 * (i + 1)) =
          (2 ^ 32 * r + natDigit a i) * 2 ^ (32 * i) + a % 2 ^ (32 * i) := by
        rw [pow_digit_succ, Nat.mul_comm (2 ^ 32) (2 ^ (32 * i)), Nat.mod_mul, natDigit]
        ring
      rw [e1]
      conv_lhs => rw [h3]
      ring
    rw [i1, i2, key, Nat.mul_add_div (by omega), Nat.mul_add_mod]
    exact ⟨by omega, rfl⟩

end Sys2Proof.Machine
end

