-- ==== Sys2Proof/Laws/PerInstr.lean ====
section
/-! SUPPORT. Facts about every command as syntax, one lemma per constructor. -/

/-- The encoding of a command (R150, R154): its word is legal (R151), its opcode is the word's low byte, the
bits above are 0, and the word decodes to it. -/
def Sys2Proof.Laws.EncodesOpcode.Statement (i : Sys2Proof.Instr) : Prop :=
  i.wellFormed = true →
    Sys2Proof.legalWord (Sys2Proof.encode i) = true ∧
    Sys2Proof.opcField (Sys2Proof.encode i) = Sys2Proof.opcode i ∧
    Sys2Proof.rsvField (Sys2Proof.encode i) = 0 ∧
    Sys2Proof.decode (Sys2Proof.encode i) = .ok i

theorem Sys2Proof.Laws.EncodesOpcode.nop :
    Sys2Proof.Laws.EncodesOpcode.Statement .nop := by
  unfold Sys2Proof.Laws.EncodesOpcode.Statement
  decide

theorem Sys2Proof.Laws.EncodesOpcode.add :
    Sys2Proof.Laws.EncodesOpcode.Statement .add := by
  unfold Sys2Proof.Laws.EncodesOpcode.Statement
  decide

theorem Sys2Proof.Laws.EncodesOpcode.sub :
    Sys2Proof.Laws.EncodesOpcode.Statement .sub := by
  unfold Sys2Proof.Laws.EncodesOpcode.Statement
  decide

theorem Sys2Proof.Laws.EncodesOpcode.eq :
    Sys2Proof.Laws.EncodesOpcode.Statement .eq := by
  unfold Sys2Proof.Laws.EncodesOpcode.Statement
  decide

theorem Sys2Proof.Laws.EncodesOpcode.ne :
    Sys2Proof.Laws.EncodesOpcode.Statement .ne := by
  unfold Sys2Proof.Laws.EncodesOpcode.Statement
  decide

theorem Sys2Proof.Laws.EncodesOpcode.ltu :
    Sys2Proof.Laws.EncodesOpcode.Statement .ltu := by
  unfold Sys2Proof.Laws.EncodesOpcode.Statement
  decide

theorem Sys2Proof.Laws.EncodesOpcode.leu :
    Sys2Proof.Laws.EncodesOpcode.Statement .leu := by
  unfold Sys2Proof.Laws.EncodesOpcode.Statement
  decide

theorem Sys2Proof.Laws.EncodesOpcode.gtu :
    Sys2Proof.Laws.EncodesOpcode.Statement .gtu := by
  unfold Sys2Proof.Laws.EncodesOpcode.Statement
  decide

theorem Sys2Proof.Laws.EncodesOpcode.geu :
    Sys2Proof.Laws.EncodesOpcode.Statement .geu := by
  unfold Sys2Proof.Laws.EncodesOpcode.Statement
  decide

theorem Sys2Proof.Laws.EncodesOpcode.and :
    Sys2Proof.Laws.EncodesOpcode.Statement .and := by
  unfold Sys2Proof.Laws.EncodesOpcode.Statement
  decide

theorem Sys2Proof.Laws.EncodesOpcode.or :
    Sys2Proof.Laws.EncodesOpcode.Statement .or := by
  unfold Sys2Proof.Laws.EncodesOpcode.Statement
  decide

theorem Sys2Proof.Laws.EncodesOpcode.xor :
    Sys2Proof.Laws.EncodesOpcode.Statement .xor := by
  unfold Sys2Proof.Laws.EncodesOpcode.Statement
  decide

theorem Sys2Proof.Laws.EncodesOpcode.not :
    Sys2Proof.Laws.EncodesOpcode.Statement .not := by
  unfold Sys2Proof.Laws.EncodesOpcode.Statement
  decide

theorem Sys2Proof.Laws.EncodesOpcode.sll :
    Sys2Proof.Laws.EncodesOpcode.Statement .sll := by
  unfold Sys2Proof.Laws.EncodesOpcode.Statement
  decide

theorem Sys2Proof.Laws.EncodesOpcode.srl :
    Sys2Proof.Laws.EncodesOpcode.Statement .srl := by
  unfold Sys2Proof.Laws.EncodesOpcode.Statement
  decide

theorem Sys2Proof.Laws.EncodesOpcode.sra :
    Sys2Proof.Laws.EncodesOpcode.Statement .sra := by
  unfold Sys2Proof.Laws.EncodesOpcode.Statement
  decide

theorem Sys2Proof.Laws.EncodesOpcode.zext64 :
    Sys2Proof.Laws.EncodesOpcode.Statement .zext64 := by
  unfold Sys2Proof.Laws.EncodesOpcode.Statement
  decide

theorem Sys2Proof.Laws.EncodesOpcode.mul :
    Sys2Proof.Laws.EncodesOpcode.Statement .mul := by
  unfold Sys2Proof.Laws.EncodesOpcode.Statement
  decide

theorem Sys2Proof.Laws.EncodesOpcode.mul64 :
    Sys2Proof.Laws.EncodesOpcode.Statement .mul64 := by
  unfold Sys2Proof.Laws.EncodesOpcode.Statement
  decide

theorem Sys2Proof.Laws.EncodesOpcode.divu :
    Sys2Proof.Laws.EncodesOpcode.Statement .divu := by
  unfold Sys2Proof.Laws.EncodesOpcode.Statement
  decide

theorem Sys2Proof.Laws.EncodesOpcode.remu :
    Sys2Proof.Laws.EncodesOpcode.Statement .remu := by
  unfold Sys2Proof.Laws.EncodesOpcode.Statement
  decide

theorem Sys2Proof.Laws.EncodesOpcode.divs :
    Sys2Proof.Laws.EncodesOpcode.Statement .divs := by
  unfold Sys2Proof.Laws.EncodesOpcode.Statement
  decide

theorem Sys2Proof.Laws.EncodesOpcode.rems :
    Sys2Proof.Laws.EncodesOpcode.Statement .rems := by
  unfold Sys2Proof.Laws.EncodesOpcode.Statement
  decide

theorem Sys2Proof.Laws.EncodesOpcode.neg :
    Sys2Proof.Laws.EncodesOpcode.Statement .neg := by
  unfold Sys2Proof.Laws.EncodesOpcode.Statement
  decide

theorem Sys2Proof.Laws.EncodesOpcode.sext64 :
    Sys2Proof.Laws.EncodesOpcode.Statement .sext64 := by
  unfold Sys2Proof.Laws.EncodesOpcode.Statement
  decide

theorem Sys2Proof.Laws.EncodesOpcode.lts :
    Sys2Proof.Laws.EncodesOpcode.Statement .lts := by
  unfold Sys2Proof.Laws.EncodesOpcode.Statement
  decide

theorem Sys2Proof.Laws.EncodesOpcode.les :
    Sys2Proof.Laws.EncodesOpcode.Statement .les := by
  unfold Sys2Proof.Laws.EncodesOpcode.Statement
  decide

theorem Sys2Proof.Laws.EncodesOpcode.gts :
    Sys2Proof.Laws.EncodesOpcode.Statement .gts := by
  unfold Sys2Proof.Laws.EncodesOpcode.Statement
  decide

theorem Sys2Proof.Laws.EncodesOpcode.ges :
    Sys2Proof.Laws.EncodesOpcode.Statement .ges := by
  unfold Sys2Proof.Laws.EncodesOpcode.Statement
  decide

theorem Sys2Proof.Laws.EncodesOpcode.fxadd64 :
    Sys2Proof.Laws.EncodesOpcode.Statement .fxadd64 := by
  unfold Sys2Proof.Laws.EncodesOpcode.Statement
  decide

theorem Sys2Proof.Laws.EncodesOpcode.fxsub64 :
    Sys2Proof.Laws.EncodesOpcode.Statement .fxsub64 := by
  unfold Sys2Proof.Laws.EncodesOpcode.Statement
  decide

theorem Sys2Proof.Laws.EncodesOpcode.fxmul64 :
    Sys2Proof.Laws.EncodesOpcode.Statement .fxmul64 := by
  unfold Sys2Proof.Laws.EncodesOpcode.Statement
  decide

theorem Sys2Proof.Laws.EncodesOpcode.fxdiv64 :
    Sys2Proof.Laws.EncodesOpcode.Statement .fxdiv64 := by
  unfold Sys2Proof.Laws.EncodesOpcode.Statement
  decide

theorem Sys2Proof.Laws.EncodesOpcode.fxmod64 :
    Sys2Proof.Laws.EncodesOpcode.Statement .fxmod64 := by
  unfold Sys2Proof.Laws.EncodesOpcode.Statement
  decide

theorem Sys2Proof.Laws.EncodesOpcode.fxneg64 :
    Sys2Proof.Laws.EncodesOpcode.Statement .fxneg64 := by
  unfold Sys2Proof.Laws.EncodesOpcode.Statement
  decide

theorem Sys2Proof.Laws.EncodesOpcode.fxfromint64 :
    Sys2Proof.Laws.EncodesOpcode.Statement .fxfromint64 := by
  unfold Sys2Proof.Laws.EncodesOpcode.Statement
  decide

theorem Sys2Proof.Laws.EncodesOpcode.fxmul128 :
    Sys2Proof.Laws.EncodesOpcode.Statement .fxmul128 := by
  unfold Sys2Proof.Laws.EncodesOpcode.Statement
  decide

theorem Sys2Proof.Laws.EncodesOpcode.fxdiv128 :
    Sys2Proof.Laws.EncodesOpcode.Statement .fxdiv128 := by
  unfold Sys2Proof.Laws.EncodesOpcode.Statement
  decide

theorem Sys2Proof.Laws.EncodesOpcode.fxfromint128 :
    Sys2Proof.Laws.EncodesOpcode.Statement .fxfromint128 := by
  unfold Sys2Proof.Laws.EncodesOpcode.Statement
  decide
end

