-- ==== Sys2Proof/Laws/Step.lean ====
section
/-! SUPPORT. What a command, an access, an input and a step can do: each function's cases, once. -/

namespace Sys2Proof.Machine

/-- Everything a command can do: with a zero divisor it raises DivideByZero; otherwise it writes at most Y, Z,
C and TIER. -/
theorem exec_cases {i : Instr} {s t : State} (h : exec i s = .next t) :
    (zeroDivisor i s ∧ t = s.raise .divideByZero (encode i)) ∨
    (¬zeroDivisor i s ∧ ∃ y z c r, t = { s with y := y, z := z, c := c, tier := r }) := by
  have plain : ∀ {i : Instr} {u : State}, canDivideByZero i = false →
      (Host.Outcome.next u : Host.Outcome State Fault Refusal) = .next t →
      (∃ y z c r, u = { s with y := y, z := z, c := c, tier := r }) →
      (zeroDivisor i s ∧ t = s.raise .divideByZero (encode i)) ∨
      (¬zeroDivisor i s ∧ ∃ y z c r, t = { s with y := y, z := z, c := c, tier := r }) := by
    intro i u hi hu hc
    injection hu with hu
    subst hu
    exact .inr ⟨fun hz => Bool.false_ne_true (hi.symm.trans hz.1), hc⟩
  have divide : ∀ {i : Instr} {d : Nat} {u : State}, (zeroDivisor i s ↔ d = 0) →
      unlessZeroDivisor i d s u = .next t →
      (∃ y z c r, u = { s with y := y, z := z, c := c, tier := r }) →
      (zeroDivisor i s ∧ t = s.raise .divideByZero (encode i)) ∨
      (¬zeroDivisor i s ∧ ∃ y z c r, t = { s with y := y, z := z, c := c, tier := r }) := by
    intro i d u hz hu hc
    rcases unlessZeroDivisor_cases hu with ⟨hd, rfl⟩ | ⟨hd, rfl⟩
    · exact .inl ⟨hz.2 hd, rfl⟩
    · exact .inr ⟨fun hz' => hd (hz.1 hz'), hc⟩
  cases i
  case divu => exact divide (by simp [zeroDivisor, canDivideByZero, operandB]) h ⟨_, _, _, _, rfl⟩
  case remu => exact divide (by simp [zeroDivisor, canDivideByZero, operandB]) h ⟨_, s.z, _, _, rfl⟩
  case divs => exact divide (by simp [zeroDivisor, canDivideByZero, operandB]) h ⟨_, _, _, _, rfl⟩
  case rems => exact divide (by simp [zeroDivisor, canDivideByZero, operandB]) h ⟨_, s.z, _, _, rfl⟩
  case fxdiv64 =>
    exact divide (by simp [zeroDivisor, canDivideByZero, operandB64, lower_toNat]) h
      ⟨_, s.z, _, _, rfl⟩
  case fxmod64 =>
    exact divide (by simp [zeroDivisor, canDivideByZero, operandB64, lower_toNat]) h
      ⟨_, s.z, _, _, rfl⟩
  case fxdiv128 =>
    exact divide (by simp [zeroDivisor, canDivideByZero, operandB]) h ⟨_, s.z, _, _, rfl⟩
  case nop => exact plain rfl h ⟨s.y, s.z, _, _, rfl⟩
  all_goals exact plain rfl h ⟨_, s.z, _, _, rfl⟩

/-- A CMD write is ignored, raises IllegalOperation, or runs the command it names (R604). -/
theorem issue_cases (w : Word32) (s : State) :
    (s.faulted = true ∧ issue w s = .next s) ∨
    (s.faulted = false ∧ ∃ e, decode w = .error e ∧
      issue w s = .next (s.raise .illegalOperation w)) ∨
    (s.faulted = false ∧ ∃ i, decode w = .ok i ∧ issue w s = exec i s) := by
  unfold issue
  split
  next h => exact .inl ⟨h, rfl⟩
  next h =>
    have hf : s.faulted = false := by simpa using h
    cases hd : decode w with
    | error e => exact .inr (.inl ⟨hf, e, rfl, rfl⟩)
    | ok i => exact .inr (.inr ⟨hf, i, rfl, rfl⟩)

/-- Every access: refused, an accepted read, or an accepted write. -/
theorem performAccess_cases (a : Access) (s : State) :
    (∃ off n, a = .read off n ∧ accepted off n = false ∧ performAccess a s = .next s.refuseRead) ∨
    (∃ off n, a = .read off n ∧ accepted off n = true ∧
      performAccess a s = .next (s.respond (readResponse s off n))) ∨
    (∃ off n d, a = .write off n d ∧ accepted off n = false ∧
      performAccess a s = .next (s.respond .writeError)) ∨
    (∃ off n d, a = .write off n d ∧ accepted off n = true ∧
      performAccess a s = writeAccepted off n d (s.respond .written)) := by
  cases a with
  | read off n =>
    cases h : accepted off n
    · exact .inl ⟨off, n, rfl, h, by simp [performAccess, h]⟩
    · exact .inr (.inl ⟨off, n, rfl, h, by simp [performAccess, h]⟩)
  | write off n d =>
    cases h : accepted off n
    · exact .inr (.inr (.inl ⟨off, n, d, rfl, h, by simp [performAccess, h]⟩))
    · exact .inr (.inr (.inr ⟨off, n, d, rfl, h, by simp [performAccess, h]⟩))

/-- An accepted write: to CMD, to CTRL, or elsewhere. -/
theorem writeAccepted_cases (off : BitVec 8) (n : Nat) (d : Word64) (s : State) :
    (off = 0x40#8 ∧ writeAccepted off n d s = issue (d.setWidth 32) s) ∨
    (off = 0x48#8 ∧ writeAccepted off n d s = .next (writeCtrl s (d.setWidth 32))) ∨
    (off ≠ 0x40#8 ∧ off ≠ 0x48#8 ∧ writeAccepted off n d s = .next (storeAccepted s off n d)) := by
  unfold writeAccepted
  split
  next h => exact .inl ⟨h, rfl⟩
  next h =>
    split
    next h' => exact .inr (.inl ⟨h', rfl⟩)
    next h' => exact .inr (.inr ⟨h, h', rfl⟩)

/-- A step with an input takes it. -/
theorem step_input {s : State} {e : PortEvent} {rest : List PortEvent} (h : s.inputs = e :: rest) :
    step s = performEvent e (s.withInputs rest) := by
  unfold step
  rw [h]

/-- A step without an input holds the state. -/
theorem step_idle {s : State} (h : s.inputs = []) : step s = .next s := by
  unfold step
  rw [h]

/-- An access offered while RST is released is performed. -/
theorem performEvent_access {s : State} (h : s.rst = false) (a : Access) :
    performEvent (.access a) s = performAccess a s := by
  simp [performEvent, h]

/-- An accepted read at the head of the inputs. -/
theorem step_read {s : State} {off : BitVec 8} {n : Nat} {rest : List PortEvent}
    (h : s.inputs = .access (.read off n) :: rest) (hr : s.rst = false)
    (ha : accepted off n = true) :
    step s = .next ((s.withInputs rest).respond (readResponse s off n)) := by
  rw [step_input h, performEvent_access (by simpa using hr), performAccess, if_pos ha]
  rfl

/-- A 4-byte read at a multiple of 4 answers the word at its offset. -/
theorem answersWord_readWord {s : State} {o : Nat} (hr : s.rst = false) (h : o < 256)
    (h4 : o % 4 = 0) : s.answersWord o (readWord s (BitVec.ofNat 8 o)).toNat := by
  intro rest
  have ha : accepted (BitVec.ofNat 8 o) 4 = true :=
    (accepted_iff _ _).2 (.inl ⟨rfl, by rwa [BitVec.toNat_ofNat, Nat.mod_eq_of_lt h]⟩)
  let u : State := { s with inputs := .access (.read (BitVec.ofNat 8 o) 4) :: rest }
  exact ⟨_, step_read (s := u) rfl hr ha, rfl⟩

/-- An 8-byte read at a multiple of 8 within the 128-bit registers answers the limb at its offset. -/
theorem answersLimb_readLimb {s : State} {o : Nat} (hr : s.rst = false) (h : o ≤ 0x38)
    (h8 : o % 8 = 0) : s.answersLimb o (readLimb s (BitVec.ofNat 8 o)).toNat := by
  intro rest
  have ha : accepted (BitVec.ofNat 8 o) 8 = true :=
    (accepted_iff _ _).2 (.inr ⟨rfl, by
      have e : (BitVec.ofNat 8 o).toNat = o := by
        rw [BitVec.toNat_ofNat]
        omega
      rw [e]
      exact ⟨h8, h⟩⟩)
  let u : State := { s with inputs := .access (.read (BitVec.ofNat 8 o) 8) :: rest }
  exact ⟨_, step_read (s := u) rfl hr ha, rfl⟩

/-- An accepted write, not to CMD and not to CTRL, at the head of the inputs. -/
theorem step_write {s : State} {off : BitVec 8} {n : Nat} {d : Word64} {rest : List PortEvent}
    (h : s.inputs = .access (.write off n d) :: rest) (hr : s.rst = false)
    (ha : accepted off n = true) (h1 : off ≠ 0x40#8) (h2 : off ≠ 0x48#8) :
    step s = .next (storeAccepted ((s.withInputs rest).respond .written) off n d) := by
  rw [step_input h, performEvent_access (by simpa using hr), performAccess, if_pos ha,
    writeAccepted, if_neg h1, if_neg h2]

/-- A CMD write at the head of the inputs issues its word. -/
theorem step_cmd {s : State} {d : Word64} {rest : List PortEvent}
    (h : s.inputs = .access (.write 0x40#8 4 d) :: rest) (hr : s.rst = false) :
    step s = issue (d.setWidth 32) ((s.withInputs rest).respond .written) := by
  rw [step_input h, performEvent_access (by simpa using hr)]
  rfl

/-- Everything a step can do, by its next input. -/
theorem step_cases (s : State) :
    (s.inputs = [] ∧ step s = .next s) ∨
    ∃ e rest, s.inputs = e :: rest ∧
      ((∃ a, e = .access a ∧ s.rst = true ∧
          step s = .next ((s.withInputs rest).respond .notAccepted)) ∨
        (∃ off n, e = .access (.read off n) ∧ s.rst = false ∧ accepted off n = false ∧
          step s = .next (s.withInputs rest).refuseRead) ∨
        (∃ off n, e = .access (.read off n) ∧ s.rst = false ∧ accepted off n = true ∧
          ∃ r, step s = .next ((s.withInputs rest).respond r)) ∨
        (∃ off n d, e = .access (.write off n d) ∧ s.rst = false ∧ accepted off n = false ∧
          step s = .next ((s.withInputs rest).respond .writeError)) ∨
        (∃ d, e = .access (.write 0x40#8 4 d) ∧ s.rst = false ∧
          step s = issue (d.setWidth 32) ((s.withInputs rest).respond .written)) ∨
        (∃ d : Word64, e = .access (.write 0x48#8 4 d) ∧ s.rst = false ∧ d.getLsbD 1 = true ∧
          step s = .next ((s.withInputs rest).respond .written).resetUnit) ∨
        (∃ d : Word64, e = .access (.write 0x48#8 4 d) ∧ s.rst = false ∧ d.getLsbD 1 = false ∧
          step s =
            .next (((s.withInputs rest).respond .written).setForce128 (d.getLsbD 0))) ∨
        (∃ off n d, e = .access (.write off n d) ∧ s.rst = false ∧ accepted off n = true ∧
          off ≠ 0x40#8 ∧ off ≠ 0x48#8 ∧
          step s = .next (storeAccepted ((s.withInputs rest).respond .written) off n d)) ∨
        (e = .rstAssert ∧ step s = .next ((s.withInputs rest).resetUnit.setRst true)) ∨
        (∃ w r, e = .rstAssertDuring w ∧
          step s = .next (((s.withInputs rest).resetUnit.setRst true).respond r)) ∨
        (e = .rstRelease ∧ s.rst = true ∧
          step s = .next ((s.withInputs rest).resetUnit.setRst false)) ∨
        (e = .rstRelease ∧ s.rst = false ∧ step s = .next (s.withInputs rest))) := by
  cases hi : s.inputs with
  | nil => exact .inl ⟨rfl, step_idle hi⟩
  | cons e rest =>
    refine .inr ⟨e, rest, rfl, ?_⟩
    cases e with
    | access a =>
      cases hr : s.rst
      · refine .inr ?_
        have run : step s = performAccess a (s.withInputs rest) := by
          rw [step_input hi, performEvent_access (by simpa using hr)]
        rw [run]
        rcases performAccess_cases a (s.withInputs rest) with
          ⟨off, n, rfl, h1, h2⟩ | ⟨off, n, rfl, h1, h2⟩ | ⟨off, n, d, rfl, h1, h2⟩ |
          ⟨off, n, d, rfl, h1, h2⟩
        · exact .inl ⟨off, n, rfl, rfl, h1, h2⟩
        · exact .inr (.inl ⟨off, n, rfl, rfl, h1, _, h2⟩)
        · exact .inr (.inr (.inl ⟨off, n, d, rfl, rfl, h1, h2⟩))
        · refine .inr (.inr (.inr ?_))
          rw [h2]
          have ha := (accepted_iff _ _).1 h1
          rcases writeAccepted_cases off n d ((s.withInputs rest).respond .written) with
            ⟨rfl, h3⟩ | ⟨rfl, h3⟩ | ⟨h3, h4, h5⟩
          · obtain rfl : n = 4 := by simpa using ha
            exact .inl ⟨d, rfl, rfl, h3⟩
          · obtain rfl : n = 4 := by simpa using ha
            rw [h3]
            rcases writeCtrl_cases ((s.withInputs rest).respond .written) (d.setWidth 32) with
              ⟨h6, h7⟩ | ⟨h6, h7⟩
            · exact .inr (.inl ⟨d, rfl, rfl, by simpa using h6, by rw [h7]⟩)
            · refine .inr (.inr (.inl ⟨d, rfl, rfl, by simpa using h6, ?_⟩))
              rw [h7]
              simp
          · exact .inr (.inr (.inr (.inl ⟨off, n, d, rfl, rfl, h1, h3, h4, h5⟩)))
      · exact .inl ⟨a, rfl, rfl, by rw [step_input hi]; simp [performEvent, hr]⟩
    | rstAssert =>
      exact .inr (.inr (.inr (.inr (.inr (.inr (.inr (.inr (.inl ⟨rfl, step_input hi⟩))))))))
    | rstAssertDuring w =>
      exact .inr (.inr (.inr (.inr (.inr (.inr (.inr (.inr (.inr (.inl
        ⟨w, _, rfl, step_input hi⟩)))))))))
    | rstRelease =>
      refine .inr (.inr (.inr (.inr (.inr (.inr (.inr (.inr (.inr (.inr ?_)))))))))
      rw [step_input hi]
      cases hr : s.rst
      · exact .inr ⟨rfl, rfl, by simp [performEvent, hr]⟩
      · exact .inl ⟨rfl, rfl, by simp [performEvent, hr]⟩

end Sys2Proof.Machine
end

