-- ==== Sys2Proof/Tests/Slice0.lean ====
section
/-! SUPPORT. Tests, each by evaluation, and the witnesses of the statements' hypotheses. The expected values
are the spec's: the vectors V<n> of spec/95_test_vectors.md, and words written out from the encoding of
R150 and the opcodes of R154. The vectors' "unchanged" is visible because the state a test starts from holds
Y = 7, Z = 9, C = 1 and TIER = T96. -/

namespace Sys2Proof.Tests

open Sys2Proof Sys2Proof.Machine

/-! ### Well-formedness: one ill-formed word for each check -/

theorem test_reservedClear_refuses : reservedClear 0x0000_0100#32 = false := by decide

theorem test_reservedClear_refuses_top : reservedClear 0x8000_0030#32 = false := by decide

theorem test_opcodeListed_refuses : opcodeListed 0x0000_0003#32 = false := by decide

theorem test_legalWord_refuses :
    legalWord 0x0000_0100#32 = false ∧ legalWord 0x0000_0003#32 = false ∧
      legalWord 0x0000_00FF#32 = false := by decide

/-- The first and the last opcode of each of R155's ranges name no command. -/
theorem test_range_ends_refused :
    illegalOpcodeRanges.all (fun r =>
      (decodeTableWord 32 r.1).isNone && (decodeTableWord 32 r.2).isNone) = true := by decide

/-! ### Decoding: the word of every command, bit by bit (R150, R154) -/

theorem test_decode_adder :
    decode 0b00000000_00000000_00000000_00000000#32 = .ok .nop ∧
    decode 0b00000000_00000000_00000000_00000001#32 = .ok .add ∧
    decode 0b00000000_00000000_00000000_00000010#32 = .ok .sub := by
  decide

theorem test_decode_unsigned_compares :
    decode 0b00000000_00000000_00000000_00001000#32 = .ok .eq ∧
    decode 0b00000000_00000000_00000000_00001001#32 = .ok .ne ∧
    decode 0b00000000_00000000_00000000_00001010#32 = .ok .ltu ∧
    decode 0b00000000_00000000_00000000_00001011#32 = .ok .leu ∧
    decode 0b00000000_00000000_00000000_00001100#32 = .ok .gtu ∧
    decode 0b00000000_00000000_00000000_00001101#32 = .ok .geu := by
  decide

theorem test_decode_shift_and_logic :
    decode 0b00000000_00000000_00000000_00010000#32 = .ok .and ∧
    decode 0b00000000_00000000_00000000_00010001#32 = .ok .or ∧
    decode 0b00000000_00000000_00000000_00010010#32 = .ok .xor ∧
    decode 0b00000000_00000000_00000000_00010011#32 = .ok .not ∧
    decode 0b00000000_00000000_00000000_00010100#32 = .ok .sll ∧
    decode 0b00000000_00000000_00000000_00010101#32 = .ok .srl ∧
    decode 0b00000000_00000000_00000000_00010110#32 = .ok .sra ∧
    decode 0b00000000_00000000_00000000_00011000#32 = .ok .zext64 := by
  decide

theorem test_decode_multiplier :
    decode 0b00000000_00000000_00000000_00100000#32 = .ok .mul ∧
    decode 0b00000000_00000000_00000000_00100001#32 = .ok .mul64 := by
  decide

theorem test_decode_divider :
    decode 0b00000000_00000000_00000000_00110000#32 = .ok .divu ∧
    decode 0b00000000_00000000_00000000_00110001#32 = .ok .remu ∧
    decode 0b00000000_00000000_00000000_00110010#32 = .ok .divs ∧
    decode 0b00000000_00000000_00000000_00110011#32 = .ok .rems := by
  decide

theorem test_decode_signed_layer :
    decode 0b00000000_00000000_00000000_01000000#32 = .ok .neg ∧
    decode 0b00000000_00000000_00000000_01000001#32 = .ok .sext64 ∧
    decode 0b00000000_00000000_00000000_01000100#32 = .ok .lts ∧
    decode 0b00000000_00000000_00000000_01000101#32 = .ok .les ∧
    decode 0b00000000_00000000_00000000_01000110#32 = .ok .gts ∧
    decode 0b00000000_00000000_00000000_01000111#32 = .ok .ges := by
  decide

theorem test_decode_fint :
    decode 0b00000000_00000000_00000000_01100000#32 = .ok .fxadd64 ∧
    decode 0b00000000_00000000_00000000_01100001#32 = .ok .fxsub64 ∧
    decode 0b00000000_00000000_00000000_01100010#32 = .ok .fxmul64 ∧
    decode 0b00000000_00000000_00000000_01100011#32 = .ok .fxdiv64 ∧
    decode 0b00000000_00000000_00000000_01100100#32 = .ok .fxmod64 ∧
    decode 0b00000000_00000000_00000000_01100101#32 = .ok .fxneg64 ∧
    decode 0b00000000_00000000_00000000_01100110#32 = .ok .fxfromint64 := by
  decide

theorem test_decode_fbig :
    decode 0b00000000_00000000_00000000_01110010#32 = .ok .fxmul128 ∧
    decode 0b00000000_00000000_00000000_01110011#32 = .ok .fxdiv128 ∧
    decode 0b00000000_00000000_00000000_01110110#32 = .ok .fxfromint128 := by
  decide

theorem test_decode_rejects :
    decode 0b00000000_00000000_00000000_00000011#32 = .error .unlistedOpcode ∧
    decode 0b00000000_00000000_00000001_00000000#32 = .error .reservedBits ∧
    decode 0b10000000_00000000_00000000_00110000#32 = .error .reservedBits := by
  decide

theorem test_decodeTableWord :
    decodeTableWord 32 0x73 = some .fxdiv128 ∧ decodeTableWord 32 0x173 = none ∧
      decodeTableWord 8 0x73 = some .fxdiv128 := by
  decide

/-! ### The commands: vectors of spec/95_test_vectors.md, one step each -/

/-- A machine with operands `a` and `b`, FORCE128 = `f` and the inputs `es`. -/
def machine (a b : Nat) (f : Bool) (es : List PortEvent) : State :=
  { State.reset with
    opa := BitVec.ofNat 128 a, opb := BitVec.ofNat 128 b, y := 7#128, z := 9#128, c := true,
    tier := .t96, force128 := f, inputs := es }

/-- The state after one step. -/
def after (s : State) : Option State :=
  match step s with
  | .next t => some t
  | .fault _ => none
  | .refused _ => none

/-- Y, Z, C and TIER after the command word `w`. -/
def result (w a b : Nat) (f : Bool) : Option ((Nat × Nat) × Bool × Tier) :=
  (after ((machine a b f []).withFetchWord 32 w)).map fun t => ((t.y.toNat, t.z.toNat), t.c, t.tier)

/-- FAULTED, CAUSE and FAULTCMD after the command word `w`, and Y and Z. -/
def record (w a b : Nat) : Option ((Bool × Cause × Nat) × Nat × Nat) :=
  (after ((machine a b false []).withFetchWord 32 w)).map fun t =>
    ((t.faulted, t.cause, t.faultcmd.toNat), t.y.toNat, t.z.toNat)

theorem test_nop_V1 :
    result 0x00 0x5
      0x6 false =
    some ((0x7, 0x9),
      false, .none) := by
  decide

theorem test_add_V2 :
    result 0x01 0xFFFFFFFFFFFFFFFF
      0x1 false =
    some ((0x10000000000000000, 0x9),
      false, .none) := by
  decide

theorem test_add_V6 :
    result 0x01 0xFFFFFFFFFFFFFFFF
      0xFFFFFFFFFFFFFFFF0000000000000001 false =
    some ((0x0, 0x9),
      true, .none) := by
  decide

theorem test_sub_V8 :
    result 0x02 0x0
      0x1 false =
    some ((0xFFFFFFFFFFFFFFFFFFFFFFFFFFFFFFFF, 0x9),
      true, .none) := by
  decide

theorem test_sub_V9 :
    result 0x02 0x10000000000000000
      0x1 false =
    some ((0xFFFFFFFFFFFFFFFF, 0x9),
      false, .none) := by
  decide

theorem test_eq_V110 :
    result 0x08 0x123456789ABCDEFFEDCBA9876543210
      0x123456789ABCDEFFEDCBA9876543210 false =
    some ((0x1, 0x9),
      false, .none) := by
  decide

theorem test_eq_V111 :
    result 0x08 0x123456789ABCDEFFEDCBA9876543210
      0x123456789ABCDEFFEDCBA9876543211 false =
    some ((0x0, 0x9),
      false, .none) := by
  decide

theorem test_ne_V112 :
    result 0x09 0x0
      0x10000000000000000 false =
    some ((0x1, 0x9),
      false, .none) := by
  decide

theorem test_ltu_V113 :
    result 0x0A 0x10000000000000000
      0xFFFFFFFFFFFFFFFF false =
    some ((0x0, 0x9),
      false, .none) := by
  decide

theorem test_ltu_V115 :
    result 0x0A 0x5
      0x5 false =
    some ((0x0, 0x9),
      false, .none) := by
  decide

theorem test_leu_V116 :
    result 0x0B 0x5
      0x5 false =
    some ((0x1, 0x9),
      false, .none) := by
  decide

theorem test_leu_V117 :
    result 0x0B 0x6
      0x5 false =
    some ((0x0, 0x9),
      false, .none) := by
  decide

theorem test_gtu_V118 :
    result 0x0C 0xFFFFFFFFFFFFFFFFFFFFFFFFFFFFFFFF
      0x0 false =
    some ((0x1, 0x9),
      false, .none) := by
  decide

theorem test_gtu_V119 :
    result 0x0C 0x0
      0x0 false =
    some ((0x0, 0x9),
      false, .none) := by
  decide

theorem test_geu_V120 :
    result 0x0D 0x0
      0x1 false =
    some ((0x0, 0x9),
      false, .none) := by
  decide

theorem test_geu_V121 :
    result 0x0D 0x80000000000000000000000000000000
      0x7FFFFFFFFFFFFFFFFFFFFFFFFFFFFFFF false =
    some ((0x1, 0x9),
      false, .none) := by
  decide

theorem test_and_V80 :
    result 0x10 0x123456789ABCDEFFEDCBA9876543210
      0xFFFF0000FFFF0000FFFF0000FFFF0000 false =
    some ((0x123000089AB0000FEDC000076540000, 0x9),
      false, .none) := by
  decide

theorem test_or_V81 :
    result 0x11 0x123456789ABCDEFFEDCBA9876543210
      0x80000000000000000000000000000000 false =
    some ((0x8123456789ABCDEFFEDCBA9876543210, 0x9),
      false, .none) := by
  decide

theorem test_xor_V82 :
    result 0x12 0x123456789ABCDEFFEDCBA9876543210
      0xFFFFFFFFFFFFFFFFFFFFFFFFFFFFFFFF false =
    some ((0xFEDCBA98765432100123456789ABCDEF, 0x9),
      false, .none) := by
  decide

theorem test_not_V83 :
    result 0x13 0x123456789ABCDEFFEDCBA9876543210
      0xFFFFFFFFFFFFFFFFFFFFFFFFFFFFFFFF false =
    some ((0xFEDCBA98765432100123456789ABCDEF, 0x9),
      false, .none) := by
  decide

theorem test_sll_V86 :
    result 0x14 0x123456789ABCDEFFEDCBA9876543210
      0x3F false =
    some ((0xFF6E5D4C3B2A19080000000000000000, 0x9),
      false, .none) := by
  decide

theorem test_sll_V93 :
    result 0x14 0x123456789ABCDEFFEDCBA9876543210
      0x10000000000000004 false =
    some ((0x123456789ABCDEFFEDCBA98765432100, 0x9),
      false, .none) := by
  decide

theorem test_srl_V94 :
    result 0x15 0x80000000000000000000000000000001
      0x1 false =
    some ((0x40000000000000000000000000000000, 0x9),
      false, .none) := by
  decide

theorem test_srl_V95 :
    result 0x15 0x80000000000000000000000000000001
      0x40 false =
    some ((0x8000000000000000, 0x9),
      false, .none) := by
  decide

theorem test_sra_V98 :
    result 0x16 0xFEDCBA98765432100123456789ABCDF0
      0x3F false =
    some ((0xFFFFFFFFFFFFFFFFFDB97530ECA86420, 0x9),
      false, .none) := by
  decide

theorem test_sra_V101 :
    result 0x16 0xFEDCBA98765432100123456789ABCDF0
      0x7F false =
    some ((0xFFFFFFFFFFFFFFFFFFFFFFFFFFFFFFFF, 0x9),
      false, .none) := by
  decide

theorem test_zext64_V132 :
    result 0x18 0xFFFFFFFFFFFFFFFFFFFFFFFFFFFFFFFF
      0x0 false =
    some ((0xFFFFFFFFFFFFFFFF, 0x9),
      false, .none) := by
  decide

theorem test_zext64_V133 :
    result 0x18 0xABCD0000000000008000000000000001
      0x0 false =
    some ((0x8000000000000001, 0x9),
      false, .none) := by
  decide

theorem test_mul_V24 :
    result 0x20 0xFFFFFFFFFFFFFFFF
      0xFFFFFFFFFFFFFFFF false =
    some ((0xFFFFFFFFFFFFFFFE0000000000000001, 0x9),
      false, .t64) := by
  decide

theorem test_mul_V28 :
    result 0x20 0x123456789ABCDEF0FEDCBA9876543210
      0xFEDCBA987654321123456789ABCDEF0 false =
    some ((0x85F06F6944673932236D88FE5618CF00, 0x9),
      false, .t128) := by
  decide

theorem test_mul64_V30 :
    result 0x21 0xFFFFFFFFFFFFFFFFFFFFFFFFFFFFFFFF
      0xDEAD000000000000FFFFFFFFFFFFFFFF false =
    some ((0xFFFFFFFFFFFFFFFE0000000000000001, 0x9),
      false, .t64) := by
  decide

theorem test_mul64_V31 :
    result 0x21 0xFFFFFFFF
      0xFFFFFFFF true =
    some ((0xFFFFFFFE00000001, 0x9),
      false, .t64) := by
  decide

theorem test_divu_V47 :
    result 0x30 0xFFFFFFFFFFFFFFFFFFFFFFFF
      0xFFFFFFFF false =
    some ((0x10000000100000001, 0x0),
      false, .t96) := by
  decide

theorem test_divu_V53 :
    result 0x30 0xFFFFFFFF7FFFFFFF40000000FFFFFFFE
      0x80000000FFFFFFFE false =
    some ((0x1FFFFFFFB00000010, 0x3FFFFFE70000001E),
      false, .t128) := by
  decide

theorem test_remu_V42 :
    result 0x31 0x10000000000000000
      0xa false =
    some ((0x6, 0x9),
      false, .t96) := by
  decide

theorem test_remu_V56 :
    result 0x31 0xFFFFFFFFFFFFFFFFFFFFFFFFFFFFFFFF
      0xFFFFFFFFFFFFFFFF false =
    some ((0x0, 0x9),
      false, .t128) := by
  decide

theorem test_divs_V67 :
    result 0x32 0x80000000000000000000000000000000
      0xFFFFFFFFFFFFFFFFFFFFFFFFFFFFFFFF false =
    some ((0x80000000000000000000000000000000, 0x0),
      false, .t96) := by
  decide

theorem test_divs_V68 :
    result 0x32 0xFFFFFFFFFFFFFFFFFFFFFFFFFFFFFFF9
      0x2 false =
    some ((0xFFFFFFFFFFFFFFFFFFFFFFFFFFFFFFFD, 0xFFFFFFFFFFFFFFFFFFFFFFFFFFFFFFFF),
      false, .t64) := by
  decide

theorem test_rems_V72 :
    result 0x33 0xFFFFFFFFFFFFFFFF0000000000000000
      0xFFFFFFFFFFFFFFFFFFFFFFFF00000001 false =
    some ((0xFFFFFFFFFFFFFFFFFFFFFFFFFFFFFFFF, 0x9),
      false, .t96) := by
  decide

theorem test_rems_V161 :
    result 0x33 0x7
      0xFFFFFFFFFFFFFFFFFFFFFFFFFFFFFFFE false =
    some ((0x1, 0x9),
      false, .t64) := by
  decide

theorem test_neg_V137 :
    result 0x40 0x1
      0x0 false =
    some ((0xFFFFFFFFFFFFFFFFFFFFFFFFFFFFFFFF, 0x9),
      false, .none) := by
  decide

theorem test_neg_V138 :
    result 0x40 0x80000000000000000000000000000000
      0x0 false =
    some ((0x80000000000000000000000000000000, 0x9),
      false, .none) := by
  decide

theorem test_sext64_V134 :
    result 0x41 0x8000000000000000
      0x0 false =
    some ((0xFFFFFFFFFFFFFFFF8000000000000000, 0x9),
      false, .none) := by
  decide

theorem test_sext64_V135 :
    result 0x41 0xDEAD0000000000000000000000000005
      0x0 false =
    some ((0x5, 0x9),
      false, .none) := by
  decide

theorem test_lts_V122 :
    result 0x44 0x80000000000000000000000000000000
      0x1 false =
    some ((0x1, 0x9),
      false, .none) := by
  decide

theorem test_lts_V125 :
    result 0x44 0xFFFFFFFFFFFFFFFFFFFFFFFFFFFFFFFE
      0xFFFFFFFFFFFFFFFFFFFFFFFFFFFFFFFF false =
    some ((0x1, 0x9),
      false, .none) := by
  decide

theorem test_les_V126 :
    result 0x45 0xFFFFFFFFFFFFFFFFFFFFFFFFFFFFFFFF
      0xFFFFFFFFFFFFFFFFFFFFFFFFFFFFFFFF false =
    some ((0x1, 0x9),
      false, .none) := by
  decide

theorem test_les_V127 :
    result 0x45 0x0
      0xFFFFFFFFFFFFFFFFFFFFFFFFFFFFFFFF false =
    some ((0x0, 0x9),
      false, .none) := by
  decide

theorem test_gts_V128 :
    result 0x46 0x0
      0xFFFFFFFFFFFFFFFFFFFFFFFFFFFFFFFF false =
    some ((0x1, 0x9),
      false, .none) := by
  decide

theorem test_gts_V129 :
    result 0x46 0x7FFFFFFFFFFFFFFFFFFFFFFFFFFFFFFF
      0x80000000000000000000000000000000 false =
    some ((0x1, 0x9),
      false, .none) := by
  decide

theorem test_ges_V130 :
    result 0x47 0x80000000000000000000000000000000
      0x0 false =
    some ((0x0, 0x9),
      false, .none) := by
  decide

theorem test_ges_V131 :
    result 0x47 0xFFFFFFFFFFFFFFFFFFFFFFFFFFFFFFFF
      0xFFFFFFFFFFFFFFFFFFFFFFFFFFFFFFFF false =
    some ((0x1, 0x9),
      false, .none) := by
  decide

theorem test_fxadd64_V171 :
    result 0x60 0x7FFFFFFFFFFFFFFF
      0x1 false =
    some ((0xFFFFFFFFFFFFFFFF8000000000000000, 0x9),
      false, .none) := by
  decide

theorem test_fxadd64_V172 :
    result 0x60 0xFFFF0000000000000000000000001000
      0x1000 false =
    some ((0x2000, 0x9),
      false, .none) := by
  decide

theorem test_fxsub64_V173 :
    result 0x61 0x1800
      0x2400 false =
    some ((0xFFFFFFFFFFFFFFFFFFFFFFFFFFFFF400, 0x9),
      false, .none) := by
  decide

theorem test_fxsub64_V174 :
    result 0x61 0x8000000000000000
      0x1 false =
    some ((0x7FFFFFFFFFFFFFFF, 0x9),
      false, .none) := by
  decide

theorem test_fxmul64_V176 :
    result 0x62 0xFFFFFFFFFFFFE800
      0x2400 false =
    some ((0xFFFFFFFFFFFFFFFFFFFFFFFFFFFFCA00, 0x9),
      false, .none) := by
  decide

theorem test_fxmul64_V179 :
    result 0x62 0x10000000000
      0x10000000000 false =
    some ((0x0, 0x9),
      false, .none) := by
  decide

theorem test_fxdiv64_V182 :
    result 0x63 0xFFFFFFFFFFFFF000
      0x3 false =
    some ((0xFFFFFFFFFFFFFFFFFFFFFFFFFFAAAAAB, 0x9),
      false, .none) := by
  decide

theorem test_fxdiv64_V185 :
    record 0x63 0x1000
      0xFFFF0000000000000000000000000000 =
    some ((true, .divideByZero, 0x63), 7, 9) := by
  decide

theorem test_fxmod64_V187 :
    result 0x64 0xFFFFFFFFFFFFC800
      0x1000 false =
    some ((0xFFFFFFFFFFFFFFFFFFFFFFFFFFFFF800, 0x9),
      false, .none) := by
  decide

theorem test_fxmod64_V188 :
    result 0x64 0x3800
      0xFFFFFFFFFFFFF000 false =
    some ((0x800, 0x9),
      false, .none) := by
  decide

theorem test_fxneg64_V191 :
    result 0x65 0x1800
      0x0 false =
    some ((0xFFFFFFFFFFFFFFFFFFFFFFFFFFFFE800, 0x9),
      false, .none) := by
  decide

theorem test_fxneg64_V192 :
    result 0x65 0x8000000000000000
      0x0 false =
    some ((0xFFFFFFFFFFFFFFFF8000000000000000, 0x9),
      false, .none) := by
  decide

theorem test_fxfromint64_V194 :
    result 0x66 0xFFFFFFFFFFFFFFFF
      0x0 false =
    some ((0xFFFFFFFFFFFFFFFFFFFFFFFFFFFFF000, 0x9),
      false, .none) := by
  decide

theorem test_fxfromint64_V196 :
    result 0x66 0x8000000000000
      0x0 false =
    some ((0xFFFFFFFFFFFFFFFF8000000000000000, 0x9),
      false, .none) := by
  decide

theorem test_fxmul128_V197 :
    result 0x72 0x1800
      0xFFFFFFFFFFFFFFFFFFFFFFFFFFFFDC00 false =
    some ((0xFFFFFFFFFFFFFFFFFFFFFFFFFFFFCA00, 0x9),
      false, .t64) := by
  decide

theorem test_fxmul128_V199 :
    result 0x72 0x80000000000000000000000000000000
      0x1000 false =
    some ((0x0, 0x9),
      false, .t128) := by
  decide

theorem test_fxdiv128_V202 :
    result 0x73 0xFFFFFFFFFFFFFFFFFFFFFFFFFFFFCA00
      0x1800 false =
    some ((0xFFFFFFFFFFFFFFFFFFFFFFFFFFFFDC00, 0x9),
      false, .t64) := by
  decide

theorem test_fxdiv128_V204 :
    result 0x73 0x10000000000000000000000000000
      0x3000 false =
    some ((0x5555555555555555555555555555, 0x9),
      false, .t96) := by
  decide

theorem test_fxfromint128_V206 :
    result 0x76 0xFFFFFFFFFFFFFFFFFFFFFFFFFFFFFFFE
      0x0 false =
    some ((0xFFFFFFFFFFFFFFFFFFFFFFFFFFFFE000, 0x9),
      false, .none) := by
  decide

theorem test_fxfromint128_V207 :
    result 0x76 0x80000000000000000000000000000
      0x0 false =
    some ((0x80000000000000000000000000000000, 0x9),
      false, .none) := by
  decide

/-! ### The window and the reset: vectors V220 to V231 -/

/-- What the port answers to the first input of `s`. -/
def answer (s : State) : Option Response := (after s).map (·.response)

/-- A machine with operands 0 that has the inputs `es`. -/
def idle (es : List PortEvent) : State := machine 0 0 false es

theorem test_V220_reserved_bit_raises :
    record 0x100 0 0 = some ((true, .illegalOperation, 0x100), 7, 9) := by decide

theorem test_V222_illegal_comes_first :
    record 0x80000030 0 0 = some ((true, .illegalOperation, 0x80000030), 7, 9) := by decide

theorem test_V223_status_after_fault :
    ((after (idle [.access (.write 0x40#8 4 0x30#64), .access (.write 0x40#8 4 0x01#64)])).bind
        after).map (fun t => (t.faultcmd.toNat, t.faulted, t.cause, t.c)) =
      some (0x30, true, .divideByZero, true) := by decide

theorem test_V224_soft_reset :
    after { idle [.access (.write 0x48#8 4 0x2#64)] with
      faulted := true, cause := .divideByZero, faultcmd := 0x30#32, force128 := true } =
      some { State.reset with response := .written } := by decide

theorem test_V225_ctrl_reserved_bits :
    ((after (idle [.access (.write 0x48#8 4 0xFFFFFFFD#64), .access (.read 0x48#8 4)])).bind
      answer) = some (.data32 0x1#32) := by decide

theorem test_V226_two_byte_read_refused :
    (after (idle [.access (.read 0x20#8 2)])).map (fun t =>
      ((match t.response with | .readError _ => true | _ => false), decide (t.unit = (idle []).unit))) =
      some (true, true) := by rfl

theorem test_V228_misaligned_write_refused :
    answer (idle [.access (.write 0x03#8 4 0#64)]) = some .writeError := by decide

theorem test_V229_reserved_reads_zero :
    answer (idle [.access (.read 0x60#8 4)]) = some (.data32 0#32) ∧
      answer (idle [.access (.read 0x40#8 4)]) = some (.data32 0#32) := by decide

theorem test_V230_write_to_Y_ignored :
    ((after (idle [.access (.write 0x20#8 4 0xDEAD#64), .access (.read 0x20#8 4)])).bind answer) =
      some (.data32 7#32) := by decide

theorem test_V231_little_endian :
    ((after (idle [.access (.write 0x08#8 8 0x1122334455667788#64),
        .access (.read 0x08#8 4)])).bind answer) = some (.data32 0x55667788#32) ∧
      ((after (idle [.access (.write 0x08#8 8 0x1122334455667788#64),
        .access (.read 0x0C#8 4)])).bind answer) = some (.data32 0x11223344#32) := by decide

/-- STATUS with C = 1, TIER = T96 and a DivideByZero on record (R59): 0x10 + 0x8 + 0x2 + 0x1. -/
theorem test_status_fields :
    answer { idle [.access (.read 0x44#8 4)] with faulted := true, cause := .divideByZero } =
      some (.data32 0x1B#32) := by decide

/-- R650: an access offered while RST is asserted is not accepted; after the release all is 0. -/
theorem test_rst :
    (((after (idle [.rstAssert, .access (.write 0x00#8 4 5#64), .rstRelease])).bind after).map
        (fun t => (t.response, t.opa))) = some (.notAccepted, 0#128) ∧
      ((((after (idle [.rstAssert, .access (.write 0x00#8 4 5#64), .rstRelease])).bind
        after).bind after).map (fun t => (t.rst, t.y))) = some (false, 0#128) := by decide

/-! ### Witnesses: for each statement of Certificates/Slice0/Obligations.lean that has hypotheses, a concrete
state and operands that meet them; one for each clause, at the ends of the clause's range -/

theorem witness_DecodeAndEncodeAreInverse :
    Instr.wellFormed .fxdiv128 = true ∧ decode 0x73#32 = .ok .fxdiv128 := by decide

/-- Both clauses: the least and the greatest illegal words and the ends of two ranges; and the least and the
greatest legal word. -/
theorem witness_IllegalWordsAreExactlyTheListed :
    let illegal (w : Word32) : Prop := w.toNat / 256 ≠ 0 ∨
      ∃ r ∈ illegalOpcodeRanges, r.1 ≤ w.toNat % 256 ∧ w.toNat % 256 ≤ r.2
    (idle []).faulted = false ∧ illegal 0x100#32 ∧ illegal 0xFFFFFFFF#32 ∧ illegal 0x03#32 ∧
      illegal 0xFF#32 ∧ ¬illegal 0x00#32 ∧ ¬illegal 0x76#32 := by
  refine ⟨rfl, .inl (by decide), .inl (by decide), .inr ⟨(0x03, 0x07), by decide⟩,
    .inr ⟨(0x77, 0xFF), by decide⟩, ?_, ?_⟩ <;> decide

/-- The upper data lanes are not zero: only the low 32 bits are the command word. -/
theorem witness_StepRunsDecodedCommand :
    let s := idle [.access (.write 0x40#8 4 0xFFFFFFFF_00000001#64)]
    s.inputs = .access (.write 0x40#8 4 0xFFFFFFFF_00000001#64) :: [] ∧ s.rst = false ∧
      s.faulted = false ∧
      decode ((0xFFFFFFFF_00000001#64).setWidth 32) = .ok .add ∧
      Instr.wellFormed .add = true := by decide

theorem witness_IllegalWordRaises :
    let s := idle [.access (.write 0x40#8 4 0x100#64)]
    s.inputs = .access (.write 0x40#8 4 0x100#64) :: [] ∧ s.rst = false ∧ s.faulted = false ∧
      legalWord ((0x100#64).setWidth 32) = false := by decide

/-- A faulted machine with the inputs `es`. -/
def faulty (es : List PortEvent) : State :=
  { idle es with faulted := true, cause := .illegalOperation, faultcmd := 0x100#32 }

theorem witness_FaultedUnitIgnoresCommands :
    let s := faulty [.access (.write 0x40#8 4 1#64)]
    s.inputs = .access (.write 0x40#8 4 1#64) :: [] ∧ s.rst = false ∧ s.faulted = true := by decide

/-- One state for each way: staying faulted, the pin, the abandoned write, the release, the soft reset. -/
theorem witness_FaultStateIsLeftOnlyByReset :
    (∃ t, (faulty []).faulted = true ∧ step (faulty []) = .next t) ∧
    (∃ t, (faulty [.rstAssert]).faulted = true ∧ step (faulty [.rstAssert]) = .next t) ∧
    (∃ t, (faulty [.rstAssertDuring 1#32]).faulted = true ∧
      step (faulty [.rstAssertDuring 1#32]) = .next t) ∧
    (∃ t, ({ faulty [.rstRelease] with rst := true } : State).faulted = true ∧
      step { faulty [.rstRelease] with rst := true } = .next t) ∧
    (∃ t, (faulty [.access (.write 0x48#8 4 2#64)]).faulted = true ∧
      step (faulty [.access (.write 0x48#8 4 2#64)]) = .next t) :=
  ⟨⟨_, rfl, rfl⟩, ⟨_, rfl, rfl⟩, ⟨_, rfl, rfl⟩, ⟨_, rfl, rfl⟩, ⟨_, rfl, rfl⟩⟩

theorem witness_EveryCommandHasANextState :
    zeroDivisor .divs (machine 5 0 false []) ∧ zeroDivisor .fxmod64 (machine 5 (2 ^ 64) false []) ∧
      ¬zeroDivisor .rems (machine 5 (2 ^ 64) false []) ∧
      ¬zeroDivisor .add (machine 5 0 false []) := by
  unfold zeroDivisor
  decide

/-- A state that is not faulted, and one that is, with a step each. -/
theorem witness_EveryStepKeepsTheFaultRecord :
    ((idle [.access (.write 0x40#8 4 0x30#64)]).Inv ∧
      ∃ t, step (idle [.access (.write 0x40#8 4 0x30#64)]) = .next t) ∧
    ((faulty []).Inv ∧ ∃ t, step (faulty []) = .next t) :=
  ⟨⟨⟨fun _ => ⟨rfl, rfl⟩, fun h => (by cases h), fun h => (by cases h)⟩, _, rfl⟩,
   ⟨⟨fun h => (by cases h), fun _ => .inr ⟨rfl, by decide⟩, fun h => (by cases h)⟩, _, rfl⟩⟩

theorem witness_SoftResetSetsEverything :
    let s := faulty [.access (.write 0x48#8 4 0xFFFFFFFF#64)]
    s.inputs = .access (.write 0x48#8 4 0xFFFFFFFF#64) :: [] ∧ s.rst = false ∧
      (0xFFFFFFFF#64).getLsbD 1 = true := by decide

theorem witness_ResetInputHoldsThePort :
    (idle [.rstAssert]).inputs = .rstAssert :: [] ∧
    (let s : State := { State.reset with rst := true, inputs := [.access (.read 0#8 4)] }
     s.inputs = .access (.read 0#8 4) :: [] ∧ s.rst = true) ∧
    (let s : State := { State.reset with rst := true, inputs := [.rstRelease] }
     s.inputs = .rstRelease :: [] ∧ s.rst = true) := by decide

theorem witness_ResetAbandonsTheCommandInFlight :
    let s := idle [.rstAssertDuring 0x30#32]
    s.inputs = .rstAssertDuring 0x30#32 :: [] ∧ s.rst = false := by decide

/-- Both clauses at both ends of their offsets. -/
theorem witness_AcceptedReadReturnsTheWindowBytes :
    (∀ off ∈ [0x00#8, 0xFC#8],
      let s := idle [.access (.read off 4)]
      s.inputs = .access (.read off 4) :: [] ∧ s.rst = false ∧ off.toNat % 4 = 0) ∧
    (∀ off ∈ [0x00#8, 0x38#8],
      let s := idle [.access (.read off 8)]
      s.inputs = .access (.read off 8) :: [] ∧ s.rst = false ∧ off.toNat % 8 = 0 ∧
        off.toNat ≤ 0x38) := by decide

theorem witness_ReadsOfTheRegisters :
    (idle []).rst = false ∧ 3 < 4 ∧ 1 < 2 ∧ 15 < 16 ∧
      (∀ o ∈ [0x40, 0x50, 0xFC], o < 256 ∧ o % 4 = 0 ∧ (o = 0x40 ∨ 0x50 ≤ o)) := by decide

theorem witness_EightByteReadIsTwoFourByteReads :
    (idle []).rst = false ∧ ∀ o ∈ [0x00, 0x38], o % 8 = 0 ∧ o ≤ 0x38 := by decide

theorem witness_StatusReadShowsTheFields :
    let s := faulty [.access (.read 0x44#8 4)]
    s.inputs = .access (.read 0x44#8 4) :: [] ∧ s.rst = false := by decide

/-- Misaligned, the first and last refused 8-byte offsets, a wrong size; as a read and as a write. -/
theorem witness_RefusedAccessChangesNothing :
    ∀ p ∈ [(0x01#8, 4), (0xFF#8, 4), (0x04#8, 8), (0x40#8, 8), (0xF8#8, 8), (0x20#8, 2),
        (0x00#8, 16), (0x00#8, 0)],
      (idle [.access (.read p.1 p.2)]).inputs = .access (.read p.1 p.2) :: [] ∧
      (idle [.access (.write p.1 p.2 1#64)]).inputs = .access (.write p.1 p.2 1#64) :: [] ∧
      (idle [.access (.read p.1 p.2)]).rst = false ∧
      (idle [.access (.write p.1 p.2 1#64)]).rst = false ∧
      ¬(p.2 = 4 ∧ p.1.toNat % 4 = 0) ∧
      ¬(p.2 = 8 ∧ p.1.toNat % 8 = 0 ∧ p.1.toNat ≤ 0x38) := by decide

theorem witness_OperandWriteReplacesExactlyItsWord :
    ∀ p ∈ [(0x00#8, 4), (0x0C#8, 4), (0x10#8, 4), (0x1C#8, 4), (0x00#8, 8), (0x08#8, 8),
        (0x18#8, 8)],
      (idle [.access (.write p.1 p.2 1#64)]).inputs = .access (.write p.1 p.2 1#64) :: [] ∧
      (idle [.access (.write p.1 p.2 1#64)]).rst = false ∧ p.1.toNat < 0x20 ∧
      ((p.2 = 4 ∧ p.1.toNat % 4 = 0) ∨ (p.2 = 8 ∧ p.1.toNat % 8 = 0)) := by decide

theorem witness_WritesToReadOnlyRegistersAreIgnored :
    (∀ p ∈ [(0x20#8, 4), (0x20#8, 8), (0x38#8, 8), (0x3C#8, 4), (0x44#8, 4), (0x4C#8, 4),
        (0x50#8, 4), (0xFC#8, 4)],
      (idle [.access (.write p.1 p.2 1#64)]).inputs = .access (.write p.1 p.2 1#64) :: [] ∧
      (idle [.access (.write p.1 p.2 1#64)]).rst = false ∧
      ((p.2 = 4 ∧ p.1.toNat % 4 = 0) ∨
        (p.2 = 8 ∧ p.1.toNat % 8 = 0 ∧ p.1.toNat ≤ 0x38)) ∧
      0x20 ≤ p.1.toNat ∧ p.1 ≠ 0x40#8 ∧ p.1 ≠ 0x48#8) ∧
    ((idle []).rst = false ∧ (0xFFFFFFFD#64).getLsbD 0 = (1#64).getLsbD 0 ∧
      (0xFFFFFFFD#64).getLsbD 1 = (1#64).getLsbD 1) := by decide

theorem witness_ControlRegisterWritesAndReads :
    (∀ d : Word64,
      (faulty [.access (.write 0x48#8 4 d)]).inputs = .access (.write 0x48#8 4 d) :: [] ∧
      (faulty [.access (.write 0x48#8 4 d)]).rst = false) ∧
    ((0#64).getLsbD 1 = false ∧ (1#64).getLsbD 1 = false ∧ (2#64).getLsbD 1 = true ∧
      (3#64).getLsbD 1 = true) ∧
    (faulty [.access (.read 0x48#8 4)]).inputs = .access (.read 0x48#8 4) :: [] ∧
    (faulty [.access (.read 0x48#8 4)]).rst = false :=
  ⟨fun _ => ⟨rfl, rfl⟩, by decide, rfl, rfl⟩

/-- The first address above the window, wherever it lies. -/
theorem witness_WindowDecodesHostAddresses :
    Config.base + 0x100 < Config.base ∨ Config.base + 0xFF < Config.base + 0x100 :=
  .inr (by omega)

theorem witness_StatusReadAfterFaultShowsTheCause :
    (let s := machine 5 0 false
      [.access (.write 0x40#8 4 0x100#64), .access (.read 0x44#8 4), .rstAssert]
     s.rst = false ∧ s.faulted = false ∧
      s.inputs = .access (.write 0x40#8 4 0x100#64) :: .access (.read 0x44#8 4) :: [.rstAssert] ∧
      legalWord ((0x100#64).setWidth 32) = false) ∧
    (let s := machine 5 0 false
      [.access (.write 0x40#8 4 0x30#64), .access (.read 0x44#8 4), .rstAssert]
     s.rst = false ∧ s.faulted = false ∧
      s.inputs = .access (.write 0x40#8 4 0x30#64) :: .access (.read 0x44#8 4) :: [.rstAssert] ∧
      decode ((0x30#64).setWidth 32) = .ok .divu ∧ zeroDivisor .divu s) := by
  unfold zeroDivisor
  decide

/-- A step that changes OPA, one that changes OPB, and a soft reset that changes both. -/
theorem witness_OperandsChangeOnlyByHostWritesAndResets :
    (∃ t, step (machine 5 6 false [.access (.write 0x0C#8 4 1#64)]) = .next t ∧
      t.opa ≠ (machine 5 6 false []).opa) ∧
    (∃ t, step (machine 5 6 false [.access (.write 0x10#8 4 1#64)]) = .next t ∧
      t.opb ≠ (machine 5 6 false []).opb) ∧
    (∃ t, step (machine 5 6 false [.access (.write 0x48#8 4 2#64)]) = .next t ∧
      t.opa ≠ (machine 5 6 false []).opa) :=
  ⟨⟨_, rfl, by decide⟩, ⟨_, rfl, by decide⟩, ⟨_, rfl, by decide⟩⟩

theorem witness_ScriptWritesSetTheOperand :
    (idle []).rst = false ∧ (idle []).inputs = [] := by decide

theorem witness_CommandFrame :
    (∃ t, exec .fxdiv128 (machine 5 3 false []) = .next t) ∧
    (∃ t, exec .divs (machine 5 0 false []) = .next t) ∧
    ¬zeroDivisor .fxdiv128 (machine 5 3 false []) ∧
    (∀ off ∈ [0x00#8, 0x1F#8, 0x40#8, 0x43#8, 0x48#8, 0x4B#8, 0x50#8, 0xFF#8],
      off.toNat < 0x20 ∨ (0x40 ≤ off.toNat ∧ off.toNat < 0x44) ∨
        (0x48 ≤ off.toNat ∧ off.toNat < 0x4C) ∨ 0x50 ≤ off.toNat) := by
  refine ⟨⟨_, rfl⟩, ⟨_, rfl⟩, ?_, by decide⟩
  unfold zeroDivisor
  decide

theorem witness_ZeroDivisorRaisesAndWritesNothingElse :
    zeroDivisor .divu (machine 7 0 false []) ∧
      zeroDivisor .fxdiv64 (machine 7 (0xFFFF * 2 ^ 112) false []) := by
  unfold zeroDivisor
  decide

theorem witness_OnlyIllegalWordsAndZeroDivisorsRaise :
    (∃ t, (idle [.access (.write 0x40#8 4 0x30#64)]).faulted = false ∧
      step (idle [.access (.write 0x40#8 4 0x30#64)]) = .next t ∧ t.faulted = true) ∧
    (∃ t, (idle [.access (.read 0x20#8 2)]).faulted = false ∧
      step (idle [.access (.read 0x20#8 2)]) = .next t ∧ t.faulted = false) :=
  ⟨⟨_, rfl, rfl, rfl⟩, ⟨_, rfl, rfl, rfl⟩⟩

/-- The clauses of the statements on Z, C and TIER: a command that raises, a full divide, another command,
and an illegal word. -/
theorem witness_OnlyFullDividesWriteZ :
    (∃ t, exec .remu (machine 5 3 false []) = .next t) ∧
    (∃ t, exec .divs (machine 5 0 false []) = .next t ∧
      zeroDivisor .divs (machine 5 0 false [])) ∧
    (∃ t, exec .divu (machine 5 1 false []) = .next t ∧
      ¬zeroDivisor .divu (machine 5 1 false [])) ∧
    (∃ t, exec .divs (machine (2 ^ 127) (2 ^ 128 - 1) false []) = .next t ∧
      ¬zeroDivisor .divs (machine (2 ^ 127) (2 ^ 128 - 1) false [])) ∧
    (∃ t, (idle []).faulted = false ∧ issue 0x03#32 (idle []) = .next t ∧ t.faulted = true) := by
  refine ⟨⟨_, rfl⟩, ⟨_, rfl, ?_⟩, ⟨_, rfl, ?_⟩, ⟨_, rfl, ?_⟩, ⟨_, rfl, rfl, rfl⟩⟩ <;>
    (unfold zeroDivisor; decide)

theorem witness_CarryFlagOfEveryCommand :
    (∃ t, exec .add (machine (2 ^ 128 - 1) 1 false []) = .next t) ∧
    (∃ t, exec .sub (machine 0 1 false []) = .next t) ∧
    (∃ t, exec .nop (machine 0 1 false []) = .next t) ∧
    (∃ t, exec .rems (machine 5 0 false []) = .next t ∧
      zeroDivisor .rems (machine 5 0 false [])) ∧
    ¬zeroDivisor .add (machine 0 0 false []) ∧
    (∃ t, (idle []).faulted = false ∧ issue 0x31#32 (idle []) = .next t ∧ t.faulted = true) := by
  refine ⟨⟨_, rfl⟩, ⟨_, rfl⟩, ⟨_, rfl⟩, ⟨_, rfl, ?_⟩, ?_, ⟨_, rfl, rfl, rfl⟩⟩ <;>
    (unfold zeroDivisor; decide)

theorem witness_TierOfEveryCommand :
    (∃ t, exec .divu (machine (2 ^ 64) (2 ^ 32 - 1) false []) = .next t ∧
      ¬zeroDivisor .divu (machine (2 ^ 64) (2 ^ 32 - 1) false [])) ∧
    (∃ t, exec .fxdiv128 (machine 1 0 false []) = .next t ∧
      zeroDivisor .fxdiv128 (machine 1 0 false [])) ∧
    (∃ t, (idle []).faulted = false ∧ issue 0x77#32 (idle []) = .next t ∧ t.faulted = true) := by
  refine ⟨⟨_, rfl, ?_⟩, ⟨_, rfl, ?_⟩, ⟨_, rfl, rfl, rfl⟩⟩ <;> (unfold zeroDivisor; decide)

theorem witness_TierNeverChangesAResult :
    (∃ t, exec .fxdiv128 (machine 5 3 false []) = .next t) ∧
      ∃ t, exec .divu (machine 5 0 false []) = .next t := ⟨⟨_, rfl⟩, ⟨_, rfl⟩⟩

/-- One command of each form, with operands that differ in every bit the form ignores. -/
theorem witness_IgnoredOperandBitsDoNotMatter :
    (∃ t, exec .nop (machine 5 3 false []) = .next t ∧ operandForm .nop = .nothing) ∧
    (∃ t, exec .add (machine 5 3 false []) = .next t ∧ operandForm .add = .bin128) ∧
    (∃ t, exec .neg (machine 5 3 false []) = .next t ∧ operandForm .neg = .un128) ∧
    (∃ t, exec .sra (machine 5 3 false []) = .next t ∧ operandForm .sra = .shift ∧
      ∀ k < 7, (BitVec.ofNat 128 (2 ^ 128 - 128 + 3)).getLsbD k =
        (machine 5 3 false []).opb.getLsbD k) ∧
    (∃ t, exec .fxmod64 (machine 5 3 false []) = .next t ∧ operandForm .fxmod64 = .bin64 ∧
      ∀ k < 64, (BitVec.ofNat 128 (2 ^ 128 - 2 ^ 64 + 5)).getLsbD k =
          (machine 5 3 false []).opa.getLsbD k ∧
        (BitVec.ofNat 128 (2 ^ 128 - 2 ^ 64 + 3)).getLsbD k =
          (machine 5 3 false []).opb.getLsbD k) ∧
    (∃ t, exec .sext64 (machine 5 3 false []) = .next t ∧ operandForm .sext64 = .un64 ∧
      ∀ k < 64, (BitVec.ofNat 128 (2 ^ 128 - 2 ^ 64 + 5)).getLsbD k =
        (machine 5 3 false []).opa.getLsbD k) :=
  ⟨⟨_, rfl, rfl⟩, ⟨_, rfl, rfl⟩, ⟨_, rfl, rfl⟩, ⟨_, rfl, rfl, by decide⟩,
   ⟨_, rfl, rfl, by decide⟩, ⟨_, rfl, rfl, by decide⟩⟩

/-- Two states that differ in all a command does not read. -/
theorem witness_CommandsReadOnlyTheirOperands :
    let s := machine 5 3 false []
    let s' : State := { State.reset with opa := 5#128, opb := 3#128 }
    s.opa = s'.opa ∧ s.opb = s'.opb ∧ s.force128 = s'.force128 ∧
      (∃ t, exec .divs s = .next t) ∧ (∃ t', exec .divs s' = .next t') ∧ ¬zeroDivisor .divs s := by
  refine ⟨rfl, rfl, rfl, ⟨_, rfl⟩, ⟨_, rfl⟩, ?_⟩
  unfold zeroDivisor
  decide

theorem witness_AdderCommands : (faulty []).faulted = true := rfl

theorem witness_LimbwiseAdderGivesTheSameResults :
    (∃ t, exec .add (machine (2 ^ 64 - 1) 1 false []) = .next t) ∧
      ∃ t, exec .sub (machine (2 ^ 64) 1 false []) = .next t := ⟨⟨_, rfl⟩, ⟨_, rfl⟩⟩

/-- The five clauses, at MIN128. -/
theorem witness_AdderLaws :
    let s := machine (2 ^ 127) 1 false []
    (∃ t, exec .add { s with opb := 0#128 } = .next t) ∧
    (∃ t t', exec .add s = .next t ∧ exec .add { s with opa := s.opb, opb := s.opa } = .next t') ∧
    (∃ t t', exec .neg s = .next t ∧ exec .add { s with opb := t.y } = .next t') ∧
    (∃ t t' t'', exec .neg { s with opa := s.opb } = .next t ∧
      exec .add { s with opb := t.y } = .next t' ∧ exec .sub s = .next t'') ∧
    (∃ t t', exec .sub s = .next t ∧ exec .add { s with opa := t.y } = .next t') :=
  ⟨⟨_, rfl⟩, ⟨_, _, rfl, rfl⟩, ⟨_, _, rfl, rfl⟩, ⟨_, _, _, rfl, rfl, rfl⟩, ⟨_, _, rfl, rfl⟩⟩

theorem witness_LimbwiseShiftsGiveTheSameResults :
    (∃ t, exec .sll (machine 1 63 false []) = .next t) ∧
    (∃ t, exec .srl (machine 1 64 false []) = .next t) ∧
    (∃ t, exec .sra (machine 1 127 false []) = .next t) := ⟨⟨_, rfl⟩, ⟨_, rfl⟩, ⟨_, rfl⟩⟩

theorem witness_MulIsTheSignedProduct :
    ∃ t, exec .mul (machine (2 ^ 127) (2 ^ 128 - 1) false []) = .next t := ⟨_, rfl⟩

/-- Each clause at the ends of its range. -/
theorem witness_EveryDividerTierIsFloorDivision :
    ((2 ^ 64 - 1 < 2 ^ 128 ∧ 2 ^ 64 - 1 ≠ 0) ∧ (2 ^ 64 - 1 < 2 ^ 64)) ∧
    (2 ^ 128 - 1 < 2 ^ 128 ∧ 2 ^ 32 - 1 < 2 ^ 32 ∧ 2 ^ 32 - 1 < 2 ^ 128 ∧ 2 ^ 32 - 1 ≠ 0) ∧
    (0 < 2 ^ 128 ∧ 1 < 2 ^ 128 ∧ 1 ≠ 0) := by decide

theorem witness_UnsignedDivideCommands :
    (machine (2 ^ 128 - 1) 1 false []).opb.toNat ≠ 0 ∧
    (machine 5 (2 ^ 128 - 1) true []).opb.toNat ≠ 0 ∧
    (machine 5 0 false []).opb.toNat = 0 := by decide

theorem witness_DivisionIdentity :
    let s := machine (2 ^ 128 - 1) 10 false []
    ∃ t m r, s.opb.toNat ≠ 0 ∧ exec .divu s = .next t ∧
      exec .mul { s with opa := t.y } = .next m ∧
      exec .add { s with opa := m.y, opb := t.z } = .next r :=
  ⟨_, _, _, by decide, rfl, rfl, rfl⟩

theorem witness_SignedDivideCommands :
    (machine (2 ^ 127) (2 ^ 128 - 1) false []).opb.toNat ≠ 0 ∧
    (machine 5 1 true []).opb.toNat ≠ 0 ∧
    (machine 5 0 false []).opb.toNat = 0 := by decide

/-- MIN128 and MIN128 / -1. -/
theorem witness_SignedDivisionLaws :
    let s := machine (2 ^ 127) (2 ^ 128 - 1) false []
    (∃ n t, exec .neg s = .next n ∧ exec .add { s with opb := n.y } = .next t) ∧
    ∃ t m r, s.opb.toNat ≠ 0 ∧ exec .divs s = .next t ∧
      exec .mul { s with opa := t.y } = .next m ∧
      exec .add { s with opa := m.y, opb := t.z } = .next r :=
  ⟨⟨_, _, rfl, rfl⟩, ⟨_, _, _, by decide, rfl, rfl, rfl⟩⟩

/-- A zero low limb under a nonzero upper one, and the reverse. -/
theorem witness_FIntDivideCommands :
    (machine 5 1 false []).opb.toNat % 2 ^ 64 ≠ 0 ∧
    (machine 5 (2 ^ 64 - 1) false []).opb.toNat % 2 ^ 64 ≠ 0 ∧
    (machine 5 (2 ^ 64) false []).opb.toNat % 2 ^ 64 = 0 := by decide

theorem witness_FBigDivideCommand :
    (machine (2 ^ 115) (2 ^ 128 - 1) false []).opb.toNat ≠ 0 ∧
    (machine 5 1 false []).opb.toNat ≠ 0 ∧
    (machine 5 0 false []).opb.toNat = 0 := by decide

theorem witness_FixedPointLaws :
    (let s := machine (2 ^ 63 - 1) 1 false []
     ∃ t t', exec .fxadd64 s = .next t ∧ exec .fxsub64 { s with opa := t.y } = .next t') ∧
    (let s := machine (2 ^ 128 - 1) 1 false []
     ∃ t t', exec .add s = .next t ∧ exec .sub { s with opa := t.y } = .next t') ∧
    ((machine (2 ^ 64 + 1) (2 ^ 64 + 3) false []).opa.toNat % 2 ^ 64 = 1 ∧
      (machine (2 ^ 64 + 1) (2 ^ 64 + 3) false []).opb.toNat % 2 ^ 64 = 3) ∧
    ((machine 1 3 false []).opa.toNat = 1 ∧ (machine 1 3 false []).opb.toNat = 3) :=
  ⟨⟨_, _, rfl, rfl⟩, ⟨_, _, rfl, rfl⟩, by decide, by decide⟩

end Sys2Proof.Tests
end

section
/-! PROOFS, the architectural state (spec/10_state.md): the fault record, the reset, the port's reads and
writes of STATUS and CTRL, and what a command reads, writes and keeps. -/

namespace Sys2Proof.Machine

/-! ### The decoder: the word of a command, and the words that are none -/

/-- A command's word decodes to it (R150, R154). -/
theorem decode_encode (i : Instr) : decode (encode i) = .ok i := by
  cases i <;> rfl

/-- R155's list of illegal opcodes leaves out no opcode that R154 does not list. -/
theorem lookup_isSome_of_opcodeListed :
    ∀ o : BitVec 8, opcodeListed (0#24 ++ o) = true → (opcodeMap.lookup o).isSome = true := by
  decide

theorem opcField_toNat (w : Word32) : (opcField w).toNat = w.toNat % 256 := by
  simp [opcField]

/-- The reserved bits are 0 exactly when the field RSV is (R150). -/
theorem rsvField_eq_zero_iff (w : Word32) : rsvField w = 0 ↔ reservedClear w = true := by
  have := w.isLt
  rw [← BitVec.toNat_inj]
  simp [rsvField, reservedClear, Nat.shiftRight_eq_div_pow]
  omega

/-- A word the decoder rejects is not legal (R151, R155). -/
theorem legalWord_of_decode_error {w : Word32} {e : DecodeError} (h : decode w = .error e) :
    legalWord w = false := by
  rw [Bool.eq_false_iff]
  intro hl
  obtain ⟨hr, ho⟩ := (Bool.and_eq_true _ _).mp hl
  have hlow : (0#24 ++ opcField w).toNat % 256 = w.toNat % 256 := by
    rw [BitVec.toNat_append, opcField_toNat]
    simp
  have hsome : (opcodeMap.lookup (opcField w)).isSome = true := by
    apply lookup_isSome_of_opcodeListed
    rw [opcodeListed, hlow]
    exact ho
  obtain ⟨i, hi⟩ := Option.isSome_iff_exists.mp hsome
  rw [decode, if_neg (not_not_intro ((rsvField_eq_zero_iff w).mpr hr)), hi] at h
  cases h

/-! ### What a command and a CMD write do to the fault record and the operands -/

/-- A CMD write that leads into the fault state is an exception and does nothing else (R605). -/
theorem issue_enters_fault {w : Word32} {s t : State} (hs : s.faulted = false)
    (h : issue w s = .next t) (ht : t.faulted = true) : ∃ e, t = s.raise e t.faultcmd := by
  rcases issue_cases w s with ⟨hf, _⟩ | ⟨_, e, _, hi⟩ | ⟨_, i, _, hi⟩
  · exact absurd (hs.symm.trans hf) Bool.false_ne_true
  · rw [hi] at h
    cases h
    exact ⟨_, rfl⟩
  · rw [hi] at h
    rcases exec_cases h with ⟨_, rfl⟩ | ⟨_, y, z, c, r, rfl⟩
    · exact ⟨_, rfl⟩
    · exact absurd (hs.symm.trans ht) Bool.false_ne_true

/-- No command writes OPA or OPB (R51). -/
theorem exec_keeps_operands {i : Instr} {s t : State} (h : exec i s = .next t) :
    t.opa = s.opa ∧ t.opb = s.opb := by
  rcases exec_cases h with ⟨_, rfl⟩ | ⟨_, y, z, c, r, rfl⟩ <;> exact ⟨rfl, rfl⟩

/-- No CMD write changes OPA or OPB (R51). -/
theorem issue_keeps_operands {w : Word32} {s t : State} (h : issue w s = .next t) :
    t.opa = s.opa ∧ t.opb = s.opb := by
  rcases issue_cases w s with ⟨_, hi⟩ | ⟨_, e, _, hi⟩ | ⟨_, i, _, hi⟩
  · rw [hi] at h
    cases h
    exact ⟨rfl, rfl⟩
  · rw [hi] at h
    cases h
    exact ⟨rfl, rfl⟩
  · rw [hi] at h
    exact exec_keeps_operands h

/-! ### The invariant of the fault record -/

/-- A change of the model's own fields, with the unit and the pin as before, keeps the invariant. -/
theorem State.Inv.of_unit_eq {s t : State} (hs : s.Inv) (hu : t.unit = s.unit) (hr : t.rst = s.rst) :
    t.Inv := by
  have hf : t.unit.faulted = s.unit.faulted := by rw [hu]
  have hc : t.unit.cause = s.unit.cause := by rw [hu]
  have hw : t.unit.faultcmd = s.unit.faultcmd := by rw [hu]
  simp only [State.unit_faulted, State.unit_cause, State.unit_faultcmd] at hf hc hw
  unfold State.Inv
  rw [hf, hc, hw, hr, hu]
  exact hs

/-- With RST released the invariant rests on the fault record alone. -/
theorem State.Inv.of_record_eq {s t : State} (hs : s.Inv) (hr : t.rst = false)
    (hf : t.faulted = s.faulted) (hc : t.cause = s.cause) (hw : t.faultcmd = s.faultcmd) : t.Inv := by
  obtain ⟨hclear, hrec, _⟩ := hs
  unfold State.Inv
  rw [hf, hc, hw]
  exact ⟨hclear, hrec, fun h => absurd (hr.symm.trans h) Bool.false_ne_true⟩

/-- A unit at its reset values has the invariant, whatever its pin (R63, R65, R66). -/
theorem inv_of_unit_eq_reset {t : State} (hu : t.unit = State.reset) : t.Inv := by
  have hf : t.unit.faulted = false := by rw [hu]; rfl
  have hc : t.unit.cause = .none := by rw [hu]; rfl
  have hw : t.unit.faultcmd = 0#32 := by rw [hu]; rfl
  exact ⟨fun _ => ⟨hc, hw⟩, fun h => absurd (hf.symm.trans h) Bool.false_ne_true, fun _ => hu⟩

/-- A raise gives the invariant when it records a cause with a word that has it (R600, R605). -/
theorem inv_raise {s : State} {e : Cause} {w : Word32} (hr : s.rst = false)
    (hw : (e = .divideByZero ∧ ∃ i, decode w = .ok i ∧ canDivideByZero i = true) ∨
      (e = .illegalOperation ∧ legalWord w = false)) : (s.raise e w).Inv :=
  ⟨fun h => absurd h.symm Bool.false_ne_true, fun _ => hw,
    fun h => absurd (hr.symm.trans h) Bool.false_ne_true⟩

/-- A CMD write keeps the invariant. -/
theorem State.Inv.of_issue {w : Word32} {s t : State} (hs : s.Inv) (hr : s.rst = false)
    (h : issue w s = .next t) : t.Inv := by
  rcases issue_cases w s with ⟨_, hi⟩ | ⟨_, e, hd, hi⟩ | ⟨_, i, _, hi⟩
  · rw [hi] at h
    cases h
    exact hs
  · rw [hi] at h
    cases h
    exact inv_raise hr (.inr ⟨rfl, legalWord_of_decode_error hd⟩)
  · rw [hi] at h
    rcases exec_cases h with ⟨hz, rfl⟩ | ⟨_, y, z, c, r, rfl⟩
    · exact inv_raise hr (.inl ⟨rfl, i, decode_encode i, hz.1⟩)
    · exact hs.of_record_eq hr rfl rfl rfl

/-- An accepted write outside CMD and CTRL changes OPA and OPB at most (R107, R108). -/
theorem storeAccepted_eq (s : State) (off : BitVec 8) (n : Nat) (d : Word64) :
    ∃ a b, storeAccepted s off n d = { s with opa := a, opb := b } := by
  rcases storeAccepted_cases s off n d with ⟨_, h⟩ | ⟨_, _, h⟩ | ⟨_, h⟩
  · exact ⟨_, s.opb, h⟩
  · exact ⟨s.opa, _, h⟩
  · exact ⟨s.opa, s.opb, h⟩

/-! ### What a step can do -/

/-- The inputs that reset the unit: an assertion of RST, its release, and a CTRL write with SRST that the port
takes (R650, R652, R653). -/
def resetInput (s : State) (e : PortEvent) : Prop :=
  e = .rstAssert ∨ (∃ w, e = .rstAssertDuring w) ∨ (e = .rstRelease ∧ s.rst = true) ∨
    ∃ d : Word64, e = .access (.write 0x48#8 4 d) ∧ s.rst = false ∧ d.getLsbD 1 = true

/-- What a step can do to the unit: nothing, a CMD write, a reset, a write of FORCE128, or a store into OPA and
OPB. -/
theorem step_unit_cases {s t : State} (h : step s = .next t) :
    (t.unit = s.unit ∧ t.rst = s.rst) ∨
    (s.rst = false ∧ ∃ d rest, s.inputs = .access (.write 0x40#8 4 d) :: rest ∧
      issue (d.setWidth 32) ((s.withInputs rest).respond .written) = .next t) ∨
    (t.unit = State.reset ∧ ∃ e rest, s.inputs = e :: rest ∧ resetInput s e) ∨
    (s.rst = false ∧ ∃ rest b, t = ((s.withInputs rest).respond .written).setForce128 b) ∨
    (s.rst = false ∧ ∃ off n d rest, s.inputs = .access (.write off n d) :: rest ∧
      accepted off n = true ∧
      t = storeAccepted ((s.withInputs rest).respond .written) off n d) := by
  have target : ∀ {u : State}, step s = .next u → t = u := by
    intro u hu
    rw [hu] at h
    cases h
    rfl
  rcases step_cases s with ⟨_, hstep⟩ | ⟨e, rest, hi,
    ⟨_, _, _, hstep⟩ | ⟨_, _, _, _, _, hstep⟩ | ⟨_, _, _, _, _, _, hstep⟩ |
    ⟨_, _, _, _, _, _, hstep⟩ | ⟨d, rfl, hr, hstep⟩ | ⟨d, he, hr, hd, hstep⟩ |
    ⟨_, _, hr, _, hstep⟩ | ⟨off, n, d, rfl, hr, ha, _, _, hstep⟩ | ⟨he, hstep⟩ |
    ⟨w, _, he, hstep⟩ | ⟨he, hr, hstep⟩ | ⟨_, _, hstep⟩⟩
  · rw [target hstep]
    exact .inl ⟨rfl, rfl⟩
  · rw [target hstep]
    exact .inl ⟨rfl, rfl⟩
  · rw [target hstep]
    exact .inl ⟨rfl, rfl⟩
  · rw [target hstep]
    exact .inl ⟨rfl, rfl⟩
  · rw [target hstep]
    exact .inl ⟨rfl, rfl⟩
  · exact .inr (.inl ⟨hr, d, rest, hi, hstep.symm.trans h⟩)
  · exact .inr (.inr (.inl ⟨by rw [target hstep]; rfl, e, rest, hi,
      .inr (.inr (.inr ⟨d, he, hr, hd⟩))⟩))
  · exact .inr (.inr (.inr (.inl ⟨hr, rest, _, target hstep⟩)))
  · exact .inr (.inr (.inr (.inr ⟨hr, off, n, d, rest, hi, ha, target hstep⟩)))
  · exact .inr (.inr (.inl ⟨by rw [target hstep]; rfl, e, rest, hi, .inl he⟩))
  · exact .inr (.inr (.inl ⟨by rw [target hstep]; rfl, e, rest, hi, .inr (.inl ⟨w, he⟩)⟩))
  · exact .inr (.inr (.inl ⟨by rw [target hstep]; rfl, e, rest, hi, .inr (.inr (.inl ⟨he, hr⟩))⟩))
  · rw [target hstep]
    exact .inl ⟨rfl, rfl⟩

/-- Settles O10: by what a step can do, each case keeps the invariant. -/
theorem everyStepKeepsTheFaultRecord : Obligations.EveryStepKeepsTheFaultRecord := by
  intro s t hs h
  rcases step_unit_cases h with ⟨hu, hr⟩ | ⟨hr, d, rest, _, hi⟩ | ⟨hu, _⟩ | ⟨hr, rest, b, rfl⟩ |
    ⟨hr, off, n, d, rest, _, _, rfl⟩
  · exact hs.of_unit_eq hu hr
  · have taken : ((s.withInputs rest).respond .written).Inv := hs.of_unit_eq rfl rfl
    exact taken.of_issue hr hi
  · exact inv_of_unit_eq_reset hu
  · exact hs.of_record_eq hr rfl rfl rfl
  · obtain ⟨a, b, hstore⟩ := storeAccepted_eq ((s.withInputs rest).respond .written) off n d
    rw [hstore]
    exact hs.of_record_eq hr rfl rfl rfl

/-- Settles O11. -/
theorem resetHasTheFaultRecord : Obligations.ResetHasTheFaultRecord :=
  inv_of_unit_eq_reset rfl

/-- Settles O12, by evaluation of the reset state. -/
theorem resetValues : Obligations.ResetValues := by
  unfold Obligations.ResetValues
  decide

/-- Settles O26: by what a step can do, only a reset and a store into an operand's own words remain. -/
theorem operandsChangeOnlyByHostWritesAndResets :
    Obligations.OperandsChangeOnlyByHostWritesAndResets := by
  intro s t h hne
  have keeps : t.opa = s.opa → t.opb = s.opb → False := fun ha hb =>
    hne.elim (fun hne => hne ha) (fun hne => hne hb)
  rcases step_unit_cases h with ⟨hu, _⟩ | ⟨_, d, rest, _, hi⟩ | hreset | ⟨_, rest, b, rfl⟩ |
    ⟨hr, off, n, d, rest, hin, hacc, rfl⟩
  · have ha : t.unit.opa = s.unit.opa := by rw [hu]
    have hb : t.unit.opb = s.unit.opb := by rw [hu]
    exact (keeps ha hb).elim
  · obtain ⟨ha, hb⟩ := issue_keeps_operands hi
    exact (keeps ha hb).elim
  · exact .inl hreset
  · exact (keeps rfl rfl).elim
  · refine .inr ⟨off, n, d, rest, hin, hr, hacc, ?_⟩
    rcases storeAccepted_cases ((s.withInputs rest).respond .written) off n d with
      ⟨ho, hst⟩ | ⟨ho, ho', hst⟩ | ⟨_, hst⟩
    · rw [hst]
      exact ⟨by omega, fun _ => ho, fun hb => absurd rfl hb⟩
    · rw [hst]
      exact ⟨ho', fun ha => absurd rfl ha, fun _ => ho⟩
    · rw [hst] at keeps
      exact (keeps rfl rfl).elim

/-! ### STATUS, CTRL and CMD at the port -/

/-- Settles O4. -/
theorem stepRunsDecodedCommand : Obligations.StepRunsDecodedCommand := by
  intro s d rest i hi hr hf hd _
  rcases issue_cases (d.setWidth 32) ((s.withInputs rest).respond .written) with
    ⟨hf', _⟩ | ⟨_, e, he, _⟩ | ⟨_, j, hj, hrun⟩
  · exact absurd (hf.symm.trans hf') Bool.false_ne_true
  · exact absurd (hd.symm.trans he) (by simp)
  · obtain rfl : i = j := by
      have := hd.symm.trans hj
      injection this
    rw [step_cmd hi hr, hrun]
    rfl

/-- A concatenation reads as its high part shifted above its low part. -/
theorem toNat_append_eq_add {v w : Nat} (x : BitVec v) (y : BitVec w) :
    (x ++ y).toNat = x.toNat * 2 ^ w + y.toNat := by
  rw [BitVec.toNat_append, ← Nat.shiftLeft_add_eq_or_of_lt y.isLt, Nat.shiftLeft_eq]

/-- The fields of the STATUS word (R59). -/
theorem statusWord_toNat (s : State) :
    (statusWord s).toNat = s.c.toNat + s.faulted.toNat * 2 + (tierCode s.tier).toNat * 4 +
      (causeCode s.cause).toNat * 16 := by
  simp only [statusWord, toNat_append_eq_add, BitVec.toNat_ofBool]
  simp
  omega

/-- The CTRL word is FORCE128 (R64). -/
theorem ctrlWord_toNat (s : State) : (ctrlWord s).toNat = s.force128.toNat := by
  rw [ctrlWord, toNat_append_eq_add, BitVec.toNat_ofBool]
  simp

/-- A CTRL write at the head of the inputs. -/
theorem step_ctrl {s : State} {d : Word64} {rest : List PortEvent}
    (h : s.inputs = .access (.write 0x48#8 4 d) :: rest) (hr : s.rst = false) :
    step s = .next (writeCtrl ((s.withInputs rest).respond .written) (d.setWidth 32)) := by
  rw [step_input h, performEvent_access (by simpa using hr)]
  rfl

/-- Settles O19: the read answers the STATUS word, whose fields `statusWord_toNat` gives. -/
theorem statusReadShowsTheFields : Obligations.StatusReadShowsTheFields := by
  intro s rest hi hr
  refine ⟨statusWord s, step_read hi hr rfl, ?_⟩
  rw [statusWord_toNat]
  refine congrArg₂ (· + ·) (congrArg₂ (· + ·) (congrArg₂ (· + ·) ?carry ?faulted) ?tier) ?cause
  case carry => cases s.c <;> rfl
  case faulted => cases s.faulted <;> rfl
  case tier => cases s.tier <;> rfl
  case cause => cases s.cause <;> rfl

/-- Settles O23: a CTRL write is `writeCtrl`, and a read answers the CTRL word. -/
theorem controlRegisterWritesAndReads : Obligations.ControlRegisterWritesAndReads := by
  refine ⟨fun s d rest hi hr => ?_, fun s rest hi hr => ?_⟩
  · have bit : ∀ k < 32, (d.setWidth 32).getLsbD k = d.getLsbD k := by
      intro k hk
      simp [hk]
    rw [step_ctrl hi hr]
    rcases writeCtrl_cases ((s.withInputs rest).respond .written) (d.setWidth 32) with
      ⟨h1, hw⟩ | ⟨h1, hw⟩
    · rw [bit 1 (by decide)] at h1
      refine ⟨fun h => absurd (h.symm.trans h1) Bool.false_ne_true, fun _ => ⟨_, rfl, ?_, ?_⟩⟩
      · rw [hw, State.unit_resetUnit]
      · rw [hw, State.resetUnit_force128]
    · rw [bit 1 (by decide)] at h1
      refine ⟨fun _ => ?_, fun h => absurd (h1.symm.trans h) Bool.false_ne_true⟩
      rw [hw, bit 0 (by decide)]
      rfl
  · refine ⟨ctrlWord s, step_read hi hr rfl, ?_⟩
    rw [ctrlWord_toNat]
    cases s.force128 <;> rfl

end Sys2Proof.Machine
end

section
/-! PROOFS, the divider: each algorithm gives the floor quotient and the remainder (spec/42_divide.md R306),
and the signed layer the truncated remainder (spec/46_signed.md R509). -/

namespace Sys2Proof.Machine

/-- The top digit bounds the value from both sides. -/
theorem topDigit_bounds {v : Nat} (hv : v < 2 ^ 128) (h0 : v ≠ 0) :
    2 ^ (32 * topDigit v) ≤ v ∧ v < 2 ^ (32 * (topDigit v + 1)) := by
  unfold topDigit natDigit
  split_ifs <;> norm_num at * <;> omega

/-- The normalisation of a digit sets its top bit and keeps it a digit (R305). -/
theorem normalised_digit {d : Nat} (h0 : d ≠ 0) (hd : d < 2 ^ 32) :
    2 ^ 31 ≤ d * 2 ^ leadingZeros32 d ∧ (d + 1) * 2 ^ leadingZeros32 d ≤ 2 ^ 32 := by
  have hle := Nat.log2_self_le h0
  have hlt := Nat.lt_log2_self (n := d)
  have h32 : d.log2 < 32 := (Nat.log2_lt h0).mpr hd
  rw [leadingZeros32, if_neg h0]
  constructor
  · calc 2 ^ 31 = 2 ^ d.log2 * 2 ^ (31 - d.log2) := by rw [← Nat.pow_add]; congr 1; omega
      _ ≤ _ := Nat.mul_le_mul_right _ hle
  · calc (d + 1) * 2 ^ (31 - d.log2) ≤ 2 ^ (d.log2 + 1) * 2 ^ (31 - d.log2) :=
        Nat.mul_le_mul_right _ hlt
      _ = 2 ^ 32 := by rw [← Nat.pow_add]; congr 1; omega

/-- Tier T96 on every divisor of one digit (R304, R306). -/
theorem divmodT96_eq {a b : Nat} (ha : a < 2 ^ 128) (hb0 : b ≠ 0) (hb : b < 2 ^ 32) :
    divmodT96 a b = (a / b, a % b) := by
  have whole : ∀ k, a < 2 ^ (32 * k) → t96Loop a b k 0 0 = (a / b, a % b) := by
    intro k hk
    obtain ⟨hq, hr⟩ := t96Loop_spec (a := a) hb k 0 0 (Nat.pos_of_ne_zero hb0)
    rw [Nat.mod_eq_of_lt hk, Nat.zero_mul, Nat.zero_add] at hq hr
    rw [Nat.zero_add] at hq
    exact Prod.ext hq hr
  unfold divmodT96
  split
  next h => exact whole 3 h
  next h => exact whole 4 ha

/-- The normalised divisor fills its top digit and has no more digits than the divisor (R305). -/
theorem normalised_divisor_bounds {b : Nat} (hb : b < 2 ^ 128) (h0 : b ≠ 0) :
    2 ^ 31 * 2 ^ (32 * topDigit b) ≤ b * 2 ^ leadingZeros32 (natDigit b (topDigit b)) ∧
      b * 2 ^ leadingZeros32 (natDigit b (topDigit b)) < 2 ^ (32 * (topDigit b + 1)) := by
  obtain ⟨hlow, hhigh⟩ := topDigit_bounds hb h0
  generalize topDigit b = k at *
  have hpos : 0 < 2 ^ (32 * k) := Nat.two_pow_pos _
  rw [pow_digit_succ] at hhigh ⊢
  have htop : natDigit b k = b / 2 ^ (32 * k) :=
    Nat.mod_eq_of_lt ((Nat.div_lt_iff_lt_mul hpos).mpr hhigh)
  have htop0 : natDigit b k ≠ 0 := by
    rw [htop]
    exact (Nat.div_pos hlow hpos).ne'
  obtain ⟨hset, hfits⟩ := normalised_digit htop0 (natDigit_lt b k)
  have hfloor : natDigit b k * 2 ^ (32 * k) ≤ b := by
    rw [htop]
    exact Nat.div_mul_le_self _ _
  have hceil : b < (natDigit b k + 1) * 2 ^ (32 * k) := by
    rw [htop]
    exact (Nat.div_lt_iff_lt_mul hpos).mp (Nat.lt_succ_self _)
  generalize leadingZeros32 (natDigit b k) = s at *
  have hs : 0 < 2 ^ s := Nat.two_pow_pos _
  constructor
  · calc 2 ^ 31 * 2 ^ (32 * k) ≤ natDigit b k * 2 ^ s * 2 ^ (32 * k) := Nat.mul_le_mul_right _ hset
      _ = natDigit b k * 2 ^ (32 * k) * 2 ^ s := Nat.mul_right_comm _ _ _
      _ ≤ b * 2 ^ s := Nat.mul_le_mul_right _ hfloor
  · calc b * 2 ^ s < (natDigit b k + 1) * 2 ^ (32 * k) * 2 ^ s := Nat.mul_lt_mul_of_pos_right hceil hs
      _ = (natDigit b k + 1) * 2 ^ s * 2 ^ (32 * k) := Nat.mul_right_comm _ _ _
      _ ≤ 2 ^ 32 * 2 ^ (32 * k) := Nat.mul_le_mul_right _ hfits

theorem leadingZeros32_le (v : Nat) : leadingZeros32 v ≤ 32 := by
  unfold leadingZeros32
  split <;> omega

/-- The loop of R305 divides normalised operands: `b` has k + 1 digits, `a` at most l + 1, and `s` normalises
`b`. The remainder comes out shifted by s. -/
theorem knuthLoop_normalised {a b s k l : Nat} (hkl : k ≤ l) (hs : s ≤ 32)
    (ha : a < 2 ^ (32 * (l + 1))) (hb : 2 ^ (32 * k) ≤ b)
    (hset : 2 ^ 31 * 2 ^ (32 * k) ≤ b * 2 ^ s) (hfits : b * 2 ^ s < 2 ^ (32 * (k + 1))) :
    (knuthLoop (k + 1) (natDigit (b * 2 ^ s)) (l - k + 1) (natDigit (a * 2 ^ s)) 0).1 = a / b ∧
      digitSum (knuthLoop (k + 1) (natDigit (b * 2 ^ s)) (l - k + 1) (natDigit (a * 2 ^ s)) 0).2
        (k + 1) = a % b * 2 ^ s := by
  have hspos : 0 < 2 ^ s := Nat.two_pow_pos s
  have hkpos : 0 < 2 ^ (32 * k) := Nat.two_pow_pos _
  have hlead : 2 ^ 31 ≤ natDigit (b * 2 ^ s) k := by
    rw [natDigit, Nat.mod_eq_of_lt]
    · exact (Nat.le_div_iff_mul_le hkpos).mpr hset
    · rw [pow_digit_succ] at hfits
      exact (Nat.div_lt_iff_lt_mul hkpos).mpr hfits
  have hV : digitSum (natDigit (b * 2 ^ s)) (k + 1) = b * 2 ^ s := by
    rw [digitSum_natDigit, Nat.mod_eq_of_lt hfits]
  have hU : digitSum (natDigit (a * 2 ^ s)) (l - k + 1 + (k + 1)) = a * 2 ^ s := by
    rw [digitSum_natDigit, Nat.mod_eq_of_lt]
    rw [show l - k + 1 + (k + 1) = l + 1 + 1 by omega, pow_digit_succ (l + 1), Nat.mul_comm (2 ^ 32)]
    exact Nat.mul_lt_mul_of_lt_of_le ha (Nat.pow_le_pow_right (by decide) hs) (by decide)
  have hbound : digitSum (natDigit (a * 2 ^ s)) (l - k + 1 + (k + 1)) <
      digitSum (natDigit (b * 2 ^ s)) (k + 1) * 2 ^ (32 * (l - k + 1)) := by
    rw [hU, hV, Nat.mul_right_comm]
    refine Nat.mul_lt_mul_of_pos_right (Nat.lt_of_lt_of_le ha ?_) hspos
    calc 2 ^ (32 * (l + 1)) = 2 ^ (32 * k) * 2 ^ (32 * (l - k + 1)) := by
          rw [← Nat.pow_add]
          congr 1
          omega
      _ ≤ _ := Nat.mul_le_mul_right _ hb
  obtain ⟨hq, hr⟩ := knuthLoop_spec (n := k + 1) (by omega) hlead (fun i _ => natDigit_lt _ i)
    (l - k + 1) (natDigit (a * 2 ^ s)) 0 (fun i => natDigit_lt _ i) hbound
  rw [hU, hV, Nat.mul_div_mul_right _ _ hspos, Nat.zero_add] at hq
  rw [hU, hV, Nat.mul_mod_mul_right] at hr
  exact ⟨hq, hr⟩

/-- Tier T128 on every dividend and divisor (R305, R306). -/
theorem divmodT128_eq {a b : Nat} (ha : a < 2 ^ 128) (hb : b < 2 ^ 128) (hb0 : b ≠ 0) :
    divmodT128 a b = (a / b, a % b) := by
  unfold divmodT128
  split
  next h => rw [Nat.div_eq_of_lt h, Nat.mod_eq_of_lt h]
  next h =>
    have hba : b ≤ a := Nat.le_of_not_lt h
    obtain ⟨hblow, _⟩ := topDigit_bounds hb hb0
    obtain ⟨_, hahigh⟩ := topDigit_bounds ha (by omega)
    obtain ⟨hset, hfits⟩ := normalised_divisor_bounds hb hb0
    have hle : topDigit b ≤ topDigit a := by
      have := (Nat.pow_lt_pow_iff_right (by decide : 1 < 2)).mp
        (Nat.lt_of_le_of_lt (Nat.le_trans hblow hba) hahigh)
      omega
    obtain ⟨hq, hr⟩ :=
      knuthLoop_normalised hle (leadingZeros32_le _) hahigh hblow hset hfits
    simp only [Nat.add_comm 1, Nat.add_sub_cancel, Nat.add_sub_add_right]
    rw [hq, hr, Nat.mul_div_cancel _ (Nat.two_pow_pos _)]

/-- The tier the mux selects divides its operands (R300, R352). -/
theorem divmodTier_tierDiv (f : Bool) {a b : Nat} (ha : a < 2 ^ 128) (hb : b < 2 ^ 128)
    (hb0 : b ≠ 0) : divmodTier (tierDiv f a b) a b = (a / b, a % b) := by
  unfold tierDiv
  split
  next => exact divmodT128_eq ha hb hb0
  next =>
    split
    next => rfl
    next =>
      split
      next h => exact divmodT96_eq ha hb0 h
      next => exact divmodT128_eq ha hb hb0

/-- The truncated division's remainder from the magnitudes: its sign is the dividend's. -/
theorem tmod_eq_natAbs_mod (a b : Int) :
    a.tmod b = if a < 0 then -((a.natAbs % b.natAbs : Nat) : Int) else (a.natAbs % b.natAbs : Nat) := by
  rw [← Int.natAbs_tmod]
  split
  next h =>
    have := Int.tmod_nonneg b (a := -a) (by omega)
    rw [Int.neg_tmod] at this
    omega
  next h =>
    have := Int.tmod_nonneg b (a := a) (by omega)
    omega

/-- The signed divider's remainder is the truncated division's (R509). -/
theorem signedDivmod_remainder_toInt (f : Bool) (a : Word128) {b : Word128} (hb : b.toNat ≠ 0) :
    (signedDivmod (signedTier f a b) a b).2.toInt = a.toInt.tmod b.toInt := by
  have hb0 : b.toInt ≠ 0 := by
    intro h
    exact hb (congrArg BitVec.toNat (BitVec.toInt_inj.mp (h.trans BitVec.toInt_zero.symm)))
  have hbnat : (magnitude b).toNat ≠ 0 := by
    rw [magnitude_toNat]
    omega
  have hdiv := divmodTier_tierDiv f (magnitude a).isLt (magnitude b).isLt hbnat
  unfold signedDivmod signedTier
  rw [hdiv, magnitude_toNat, magnitude_toNat]
  have hr : a.toInt.natAbs % b.toInt.natAbs < 2 ^ 127 := by
    have h1 := Nat.mod_lt a.toInt.natAbs (Nat.pos_of_ne_zero (Int.natAbs_ne_zero.mpr hb0))
    have h2 := BitVec.two_mul_toInt_lt (x := b)
    have h3 := BitVec.le_two_mul_toInt (x := b)
    omega
  have hpos : (BitVec.ofNat 128 (a.toInt.natAbs % b.toInt.natAbs)).toInt =
      (a.toInt.natAbs % b.toInt.natAbs : Nat) := by
    rw [ofNat_toInt]
    generalize a.toInt.natAbs % b.toInt.natAbs = r at hr
    exact Int.bmod_eq_of_le (by omega) (by omega)
  rw [tmod_eq_natAbs_mod]
  simp only [BitVec.msb_eq_toInt, decide_eq_true_eq]
  split
  next =>
    rw [negate_eq_neg, BitVec.toInt_neg, hpos]
    exact Int.bmod_eq_of_le (by omega) (by omega)
  next => exact hpos

end Sys2Proof.Machine
end

section
/-! PROOFS, what every command keeps, reads and writes (spec/10_state.md sections 1, 3, 4 and 8): the frame,
Z, C, TIER, and the independence of everything but the operands and FORCE128. -/

namespace Sys2Proof.Machine

/-! ### The frame -/

/-- A byte of the window outside Y, Z, STATUS and FAULTCMD shows OPA, OPB, CTRL, or 0 (R101). -/
theorem windowByte_congr {s t : State} (ha : t.opa = s.opa) (hb : t.opb = s.opb)
    (hf : t.force128 = s.force128) {off : BitVec 8}
    (ho : off.toNat < 0x20 ∨ (0x40 ≤ off.toNat ∧ off.toNat < 0x44) ∨
      (0x48 ≤ off.toNat ∧ off.toNat < 0x4C) ∨ 0x50 ≤ off.toNat) :
    windowByte t off = windowByte s off := by
  have hctrl : ctrlWord t = ctrlWord s := by rw [ctrlWord, ctrlWord, hf]
  simp only [windowByte, ha, hb, hctrl]
  rcases ho with h | ⟨h, h'⟩ | ⟨h, h'⟩ | h
  · by_cases hlow : off.toNat < 0x10
    · simp only [if_pos hlow]
    · simp only [if_neg hlow, if_pos h]
  · have : ¬off.toNat < 0x10 ∧ ¬off.toNat < 0x20 ∧ ¬off.toNat < 0x30 ∧ ¬off.toNat < 0x40 := by omega
    simp only [this, h', if_true, if_false]
  · have : ¬off.toNat < 0x10 ∧ ¬off.toNat < 0x20 ∧ ¬off.toNat < 0x30 ∧ ¬off.toNat < 0x40 ∧
        ¬off.toNat < 0x44 ∧ ¬off.toNat < 0x48 := by omega
    simp only [this, h', if_true, if_false]
  · have : ¬off.toNat < 0x10 ∧ ¬off.toNat < 0x20 ∧ ¬off.toNat < 0x30 ∧ ¬off.toNat < 0x40 ∧
        ¬off.toNat < 0x44 ∧ ¬off.toNat < 0x48 ∧ ¬off.toNat < 0x4C ∧ ¬off.toNat < 0x50 := by omega
    simp only [this, if_false]

/-- Settles O28: from the two things a command can do. -/
theorem commandFrame : Obligations.CommandFrame := by
  intro i s t h
  rcases exec_cases h with ⟨hz, rfl⟩ | ⟨_, y, z, c, r, rfl⟩
  · exact ⟨rfl, rfl, rfl, rfl, rfl, rfl, rfl, fun hn => absurd hz hn,
      fun _ => windowByte_congr (by rfl) (by rfl) (by rfl)⟩
  · exact ⟨rfl, rfl, rfl, rfl, rfl, rfl, rfl, fun _ => ⟨rfl, rfl, rfl⟩,
      fun _ => windowByte_congr (by rfl) (by rfl) (by rfl)⟩

/-! ### What a completing command writes -/

/-- The flag C a completing command writes (R60). -/
def carryOf (i : Instr) (a b : Word128) : Bool :=
  match i with
  | .add => carryOut a b
  | .sub => borrowOut a b
  | _ => false

/-- The tier a completing command writes (R61, R351 to R355). -/
def tierOf (i : Instr) (f : Bool) (a b : Word128) : Tier :=
  match i with
  | .mul => tierMul f a.toNat b.toNat
  | .mul64 => .t64
  | .divu | .remu => tierDiv f a.toNat b.toNat
  | .divs | .rems => signedTier f a b
  | .fxmul128 => tierMul f (magnitude a).toNat (magnitude b).toNat
  | .fxdiv128 => signedTier f (prescale a) b
  | _ => .none

/-- The unit after reset with its operands and FORCE128 set: what a command may read (R58, R67). -/
def freshUnit (a b : Word128) (f : Bool) : State :=
  { State.reset with opa := a, opb := b, force128 := f }

/-- `s` with the results of command `i` in `u` written back: C and TIER, Y but for NOP (R52), and Z for the
full divides (R53). -/
def State.writeBack (s : State) (i : Instr) (u : State) : State :=
  { s with
    y := if i = .nop then s.y else u.y
    z := if i = .divu ∨ i = .divs then u.z else s.z
    c := u.c
    tier := u.tier }

/-- The divisor's test looks at OPB alone (R600). -/
theorem zeroDivisor_congr {i : Instr} {s s' : State} (h : s.opb = s'.opb) :
    zeroDivisor i s ↔ zeroDivisor i s' := by
  unfold zeroDivisor
  rw [h]

/-- A 128-bit divider's divisor is all of B (R600). -/
theorem opb_ne_zero_of_divide {i : Instr} {s : State} (hi : canDivideByZero i = true)
    (h64 : ¬(i = .fxdiv64 ∨ i = .fxmod64)) (hz : ¬zeroDivisor i s) : s.opb.toNat ≠ 0 := by
  intro h
  exact hz ⟨hi, by rw [if_neg h64]; exact h⟩

/-- A 64-bit divider's divisor is the low limb of B (R600). -/
theorem operandB64_ne_zero_of_divide {i : Instr} {s : State} (hi : canDivideByZero i = true)
    (h64 : i = .fxdiv64 ∨ i = .fxmod64) (hz : ¬zeroDivisor i s) : (operandB64 s).toNat ≠ 0 := by
  intro h
  rw [operandB64, lower_toNat] at h
  exact hz ⟨hi, by rw [if_pos h64]; exact h⟩

/-- A command that does not raise does to a state what it does to the fresh unit with the same operands and
FORCE128, and its flags are those of its rule. -/
theorem exec_completes {i : Instr} {s : State} (hz : ¬zeroDivisor i s) :
    ∃ u, exec i (freshUnit s.opa s.opb s.force128) = .next u ∧
      exec i s = .next (s.writeBack i u) ∧
      u.c = carryOf i s.opa s.opb ∧ u.tier = tierOf i s.force128 s.opa s.opb := by
  cases i
  case divu | remu | divs | rems | fxdiv128 =>
    have hd := opb_ne_zero_of_divide rfl (by decide) hz
    exact ⟨_, unlessZeroDivisor_pos hd _ _, unlessZeroDivisor_pos hd _ _, rfl, rfl⟩
  case fxdiv64 | fxmod64 =>
    have hd := operandB64_ne_zero_of_divide rfl (by decide) hz
    exact ⟨_, unlessZeroDivisor_pos hd _ _, unlessZeroDivisor_pos hd _ _, rfl, rfl⟩
  all_goals exact ⟨_, rfl, rfl, rfl, rfl⟩

/-- A completed command wrote back the results of the fresh unit. -/
theorem eq_writeBack_of_exec {i : Instr} {s t : State} (h : exec i s = .next t)
    (hz : ¬zeroDivisor i s) :
    ∃ u, exec i (freshUnit s.opa s.opb s.force128) = .next u ∧ t = s.writeBack i u ∧
      u.c = carryOf i s.opa s.opb ∧ u.tier = tierOf i s.force128 s.opa s.opb := by
  obtain ⟨u, hu, hs, hc, ht⟩ := exec_completes hz
  rw [hs] at h
  cases h
  exact ⟨u, hu, rfl, hc, ht⟩

/-- A command that raises leaves everything but the fault record (R605). -/
theorem eq_raise_of_exec {i : Instr} {s t : State} (h : exec i s = .next t) (hz : zeroDivisor i s) :
    t = s.raise .divideByZero (encode i) := by
  rcases exec_cases h with ⟨_, ht⟩ | ⟨hn, _⟩
  · exact ht
  · exact absurd hz hn

/-- Settles O36: both states give the results of one fresh unit. -/
theorem commandsReadOnlyTheirOperands : Obligations.CommandsReadOnlyTheirOperands := by
  intro i s s' t t' ha hb hf h h' hz
  obtain ⟨u, hu, rfl, _, _⟩ := eq_writeBack_of_exec h hz
  obtain ⟨u', hu', rfl, _, _⟩ :=
    eq_writeBack_of_exec h' (fun hz' => hz ((zeroDivisor_congr hb).mpr hz'))
  obtain rfl : u = u' := by
    rw [ha, hb, hf, hu'] at hu
    cases hu
    rfl
  refine ⟨rfl, rfl, fun hnop => ?_, fun hdiv => ?_⟩
  · simp only [State.writeBack, if_neg hnop]
  · simp only [State.writeBack, if_pos hdiv]

/-- The old flags do not matter to a completing command (R60, R61, R67). -/
theorem exec_flags_irrelevant {i : Instr} {s t : State} (h : exec i s = .next t)
    (hz : ¬zeroDivisor i s) (c : Bool) (r : Tier) :
    exec i { s with c := c, tier := r } = .next t := by
  obtain ⟨u, hu, rfl, _, _⟩ := eq_writeBack_of_exec h hz
  have hz' : ¬zeroDivisor i { s with c := c, tier := r } := hz
  obtain ⟨u', hu', hs', _, _⟩ := exec_completes hz'
  obtain rfl : u' = u := by
    have := hu'.symm.trans hu
    injection this
  exact hs'

/-- Settles O32. -/
theorem carryFlagOfEveryCommand : Obligations.CarryFlagOfEveryCommand := by
  refine ⟨fun w s t hs h ht => ?_, fun i s t h => ⟨fun hz => ?_, fun hz => ?_⟩⟩
  · obtain ⟨e, he⟩ := issue_enters_fault hs h ht
    rw [he, State.raise_c]
  · rw [eq_raise_of_exec h hz, State.raise_c]
  · have hc : t.c = carryOf i s.opa s.opb := by
      obtain ⟨u, _, rfl, hc, _⟩ := eq_writeBack_of_exec h hz
      exact hc
    rw [hc]
    refine ⟨?add, ?sub, fun hadd hsub => ?other, fun c => exec_flags_irrelevant h hz c s.tier⟩
    case add =>
      rintro rfl
      exact decide_eq_true_iff
    case sub =>
      rintro rfl
      exact decide_eq_true_iff
    case other =>
      unfold carryOf
      split
      · exact absurd rfl hadd
      · exact absurd rfl hsub
      · rfl

/-- Settles O33: `tierOf` with the magnitudes and the prescaled dividend read as integers. -/
theorem tierOfEveryCommand : Obligations.TierOfEveryCommand := by
  refine ⟨fun w s t hs h ht => ?_, fun i s t h => ⟨fun hz => ?_, fun hz => ?_⟩⟩
  · obtain ⟨e, he⟩ := issue_enters_fault hs h ht
    rw [he, State.raise_tier]
  · rw [eq_raise_of_exec h hz, State.raise_tier]
  · have ht : t.tier = tierOf i s.force128 s.opa s.opb := by
      obtain ⟨u, _, rfl, _, ht⟩ := eq_writeBack_of_exec h hz
      exact ht
    refine ⟨?_, fun r => exec_flags_irrelevant h hz s.c r⟩
    rw [ht]
    cases i
    case divs | rems | fxmul128 =>
      simp only [tierOf, signedTier, tierDiv, tierMul, magnitude_toNat]
    case fxdiv128 =>
      simp only [tierOf, signedTier, tierDiv, magnitude_toNat, prescale_toInt]
    all_goals rfl

/-- Settles O31: the remainder is what the divider leaves, and nothing else reaches Z. -/
theorem onlyFullDividesWriteZ : Obligations.OnlyFullDividesWriteZ := by
  refine ⟨fun i s t h => ⟨fun hu hs => ?_, fun hz => ?_, fun hi hz => ?_, fun hi hz => ?_⟩,
    fun w s t hs h ht => ?_⟩
  · by_cases hz : zeroDivisor i s
    · rw [eq_raise_of_exec h hz, State.raise_z]
    · obtain ⟨u, _, rfl, _, _⟩ := eq_writeBack_of_exec h hz
      exact if_neg (not_or.mpr ⟨hu, hs⟩)
  · rw [eq_raise_of_exec h hz, State.raise_z]
  · subst hi
    have hd := opb_ne_zero_of_divide rfl (by decide) hz
    rcases unlessZeroDivisor_cases h with ⟨h0, _⟩ | ⟨_, rfl⟩
    · exact absurd h0 hd
    · rw [State.completeDivide_z, operandA, operandB,
        divmodTier_tierDiv _ s.opa.isLt s.opb.isLt hd, BitVec.toNat_ofNat]
      exact Nat.mod_eq_of_lt (Nat.lt_of_le_of_lt (Nat.mod_le _ _) s.opa.isLt)
  · subst hi
    have hd := opb_ne_zero_of_divide rfl (by decide) hz
    rcases unlessZeroDivisor_cases h with ⟨h0, _⟩ | ⟨_, rfl⟩
    · exact absurd h0 hd
    · rw [State.completeDivide_z, operandA, operandB]
      exact signedDivmod_remainder_toInt _ _ hd
  · obtain ⟨e, he⟩ := issue_enters_fault hs h ht
    rw [he, State.raise_z]

end Sys2Proof.Machine
end

section
/-! PROOFS, the host's register window (spec/20_memory.md): what a read sees, what a write replaces, which
accesses are refused or ignored, and which host addresses reach the port. -/

namespace Sys2Proof.Machine

/-! ### Slices of words and offsets in the window -/

/-- A slice of a slice is a slice of the whole. -/
theorem extractLsb'_extractLsb'_of_add_le {w : Nat} (x : BitVec w) {start len start' len' : Nat}
    (h : start' + len' ≤ len) :
    (x.extractLsb' start len).extractLsb' start' len' = x.extractLsb' (start + start') len' := by
  apply BitVec.eq_of_getLsbD_eq
  intro i hi
  have hin : start' + i < len := by omega
  simp [hi, hin, Nat.add_assoc]

/-- A slice reads as the quotient and remainder by powers of two (R9). -/
theorem extractLsb'_toNat_eq_div {w : Nat} (x : BitVec w) (start len : Nat) :
    (x.extractLsb' start len).toNat = x.toNat / 2 ^ start % 2 ^ len := by
  rw [BitVec.extractLsb'_toNat, Nat.shiftRight_eq_div_pow]

theorem toNat_ofNat_off {o : Nat} (h : o < 256) : (BitVec.ofNat 8 o).toNat = o :=
  Nat.mod_eq_of_lt h

/-- The offset j bytes further on, when it does not leave the window. -/
theorem toNat_off_add {off : BitVec 8} {j : Nat} (h : off.toNat + j < 256) :
    (off + BitVec.ofNat 8 j).toNat = off.toNat + j := by
  rw [BitVec.toNat_add, BitVec.toNat_ofNat]
  omega

/-! ### The four 128-bit registers of the window -/

/-- The 128-bit register in block r of the window, at 16 r (R101): OPA, OPB, Y, Z. -/
def wideRegister (s : State) : Nat → Word128
  | 0 => s.opa
  | 1 => s.opb
  | 2 => s.y
  | _ => s.z

/-- The window's choice by offset below 0x40 is the choice of the block (R101). -/
theorem ite_block_eq_wideRegister {α : Type} (f : Word128 → α) (d : α) (s : State) {o : Nat}
    (h : o < 0x40) :
    (if o < 0x10 then f s.opa else if o < 0x20 then f s.opb else if o < 0x30 then f s.y
      else if o < 0x40 then f s.z else d) = f (wideRegister s (o / 16)) := by
  have hblock : o / 16 < 4 := by omega
  obtain ⟨r, hr⟩ : ∃ r, o / 16 = r := ⟨_, rfl⟩
  rw [hr] at hblock ⊢
  interval_cases r
  · rw [if_pos (by omega)]
    rfl
  · rw [if_neg (by omega), if_pos (by omega)]
    rfl
  · rw [if_neg (by omega), if_neg (by omega), if_pos (by omega)]
    rfl
  · rw [if_neg (by omega), if_neg (by omega), if_neg (by omega), if_pos h]
    rfl

theorem windowByte_wide (s : State) {off : BitVec 8} (h : off.toNat < 0x40) :
    windowByte s off =
      (wideRegister s (off.toNat / 16)).extractLsb' (8 * (off.toNat % 16)) 8 :=
  ite_block_eq_wideRegister (·.extractLsb' (8 * (off.toNat % 16)) 8) _ s h

theorem readWord_wide (s : State) {off : BitVec 8} (h : off.toNat < 0x40) :
    readWord s off = digit (wideRegister s (off.toNat / 16)) (off.toNat % 16 / 4) :=
  ite_block_eq_wideRegister (digit · (off.toNat % 16 / 4)) _ s h

theorem readLimb_wide (s : State) {off : BitVec 8} (h : off.toNat < 0x40) :
    readLimb s off = limb (wideRegister s (off.toNat / 16)) (off.toNat % 16 / 8) :=
  ite_block_eq_wideRegister (limb · (off.toNat % 16 / 8)) _ s h

/-! ### The 32-bit registers of the window -/

/-- The words above the 128-bit registers (R101). -/
theorem readWord_narrow (s : State) {off : BitVec 8} (h : 0x40 ≤ off.toNat) :
    readWord s off =
      if off.toNat = 0x44 then statusWord s
      else if off.toNat = 0x48 then ctrlWord s
      else if off.toNat = 0x4C then s.faultcmd
      else 0#32 := by
  have hwide : ¬off.toNat < 0x10 ∧ ¬off.toNat < 0x20 ∧ ¬off.toNat < 0x30 ∧ ¬off.toNat < 0x40 := by
    omega
  simp only [readWord, hwide, if_false]

/-- CMD and the reserved offsets read 0 (R101). -/
theorem readWord_zero (s : State) {off : BitVec 8} (h : off.toNat = 0x40 ∨ 0x50 ≤ off.toNat) :
    readWord s off = 0#32 := by
  rw [readWord_narrow s (by omega), if_neg (by omega), if_neg (by omega), if_neg (by omega)]

/-- Above the 128-bit registers, the bytes of the window are those of the 32-bit registers (R101, R102). -/
theorem windowByte_narrow (s : State) {off off' : BitVec 8} {j : Nat} (h : 0x40 ≤ off.toNat)
    (h4 : off.toNat % 4 = 0) (hj : j < 4) (ho : off'.toNat = off.toNat + j) :
    windowByte s off' = (readWord s off).extractLsb' (8 * j) 8 := by
  have hwide : ¬off'.toNat < 0x10 ∧ ¬off'.toNat < 0x20 ∧ ¬off'.toNat < 0x30 ∧ ¬off'.toNat < 0x40 := by
    omega
  have hmod : off'.toNat % 4 = j := by omega
  rw [readWord_narrow s h]
  simp only [windowByte, hwide, hmod, if_false]
  by_cases hstatus : off.toNat = 0x44
  · rw [if_pos hstatus, if_neg (show ¬off'.toNat < 0x44 by omega),
      if_pos (show off'.toNat < 0x48 by omega)]
  by_cases hctrl : off.toNat = 0x48
  · rw [if_neg hstatus, if_pos hctrl, if_neg (show ¬off'.toNat < 0x44 by omega),
      if_neg (show ¬off'.toNat < 0x48 by omega), if_pos (show off'.toNat < 0x4C by omega)]
  by_cases hfault : off.toNat = 0x4C
  · rw [if_neg hstatus, if_neg hctrl, if_pos hfault, if_neg (show ¬off'.toNat < 0x44 by omega),
      if_neg (show ¬off'.toNat < 0x48 by omega), if_neg (show ¬off'.toNat < 0x4C by omega),
      if_pos (show off'.toNat < 0x50 by omega)]
  rw [if_neg hstatus, if_neg hctrl, if_neg hfault, BitVec.extractLsb'_zero]
  by_cases hcmd : off'.toNat < 0x44
  · rw [if_pos hcmd]
  · rw [if_neg hcmd, if_neg (by omega), if_neg (by omega), if_neg (by omega)]

/-! ### The bytes and the words of a read -/

/-- Byte j of an accepted 4-byte read is the window's byte at off + j (R102). -/
theorem readWord_byte (s : State) {off : BitVec 8} {j : Nat} (h4 : off.toNat % 4 = 0) (hj : j < 4) :
    (readWord s off).extractLsb' (8 * j) 8 = windowByte s (off + BitVec.ofNat 8 j) := by
  have hoff : (off + BitVec.ofNat 8 j).toNat = off.toNat + j := toNat_off_add (by omega)
  by_cases hwide : off.toNat < 0x40
  · rw [readWord_wide s hwide, windowByte_wide s (by omega), hoff, digit,
      extractLsb'_extractLsb'_of_add_le _ (by omega)]
    congr 2
    · omega
    · omega
  · exact (windowByte_narrow s (by omega) h4 hj hoff).symm

/-- An accepted 8-byte read is the word at off + 4 above the word at off (R103). -/
theorem readLimb_eq_append (s : State) {off : BitVec 8} (h8 : off.toNat % 8 = 0)
    (h : off.toNat ≤ 0x38) :
    readLimb s off = readWord s (off + 4#8) ++ readWord s off := by
  have hoff : (off + 4#8).toNat = off.toNat + 4 := toNat_off_add (by omega)
  have hblock : (off.toNat + 4) / 16 = off.toNat / 16 := by omega
  have hlow : 32 * (off.toNat % 16 / 4) = 64 * (off.toNat % 16 / 8) := by omega
  have hhigh : 32 * ((off.toNat + 4) % 16 / 4) = 64 * (off.toNat % 16 / 8) + 32 := by omega
  rw [readLimb_wide s (by omega), readWord_wide s (by omega), readWord_wide s (by omega), hoff, hblock,
    limb, digit, digit, hlow, hhigh, BitVec.extractLsb'_append_extractLsb'_eq_extractLsb' rfl]

/-- Byte j of an accepted 8-byte read is the window's byte at off + j (R102). -/
theorem readLimb_byte (s : State) {off : BitVec 8} {j : Nat} (h8 : off.toNat % 8 = 0)
    (h : off.toNat ≤ 0x38) (hj : j < 8) :
    (readLimb s off).extractLsb' (8 * j) 8 = windowByte s (off + BitVec.ofNat 8 j) := by
  rw [readLimb_eq_append s h8 h]
  by_cases hlow : j < 4
  · rw [BitVec.extractLsb'_append_eq_of_add_le (by omega), readWord_byte s (by omega) hlow]
  · have hoff : (off + 4#8).toNat = off.toNat + 4 := toNat_off_add (by omega)
    obtain ⟨k, rfl⟩ : ∃ k, j = 4 + k := ⟨j - 4, by omega⟩
    rw [BitVec.extractLsb'_append_eq_of_le (by omega), show 8 * (4 + k) - 32 = 8 * k by omega,
      readWord_byte s (by omega) (by omega), BitVec.add_assoc, ← BitVec.ofNat_add]

/-- Settles O16: the answer is `readWord` or `readLimb`, whose bytes are those of the window. -/
theorem acceptedReadReturnsTheWindowBytes : Obligations.AcceptedReadReturnsTheWindowBytes := by
  intro s off n rest hi hr
  constructor
  · rintro rfl h4
    exact ⟨readWord s off, step_read hi hr ((accepted_iff _ _).2 (.inl ⟨rfl, h4⟩)),
      fun j hj => readWord_byte s h4 hj⟩
  · rintro rfl h8 h
    exact ⟨readLimb s off, step_read hi hr ((accepted_iff _ _).2 (.inr ⟨rfl, h8, h⟩)),
      fun j hj => readLimb_byte s h8 h hj⟩

/-- Settles O18: the limb is the two words, one above the other. -/
theorem eightByteReadIsTwoFourByteReads : Obligations.EightByteReadIsTwoFourByteReads := by
  intro s o hr h8 h
  have hoff : (BitVec.ofNat 8 o).toNat = o := toNat_ofNat_off (by omega)
  have hsum : (readLimb s (BitVec.ofNat 8 o)).toNat =
      (readWord s (BitVec.ofNat 8 o)).toNat +
        2 ^ 32 * (readWord s (BitVec.ofNat 8 (o + 4))).toNat := by
    rw [readLimb_eq_append s (by omega) (by omega), toNat_append_eq_add, BitVec.ofNat_add, Nat.add_comm,
      Nat.mul_comm]
  refine ⟨_, _, answersWord_readWord hr (by omega) (by omega),
    answersWord_readWord hr (by omega) (by omega), ?_⟩
  rw [← hsum]
  exact answersLimb_readLimb hr h h8

/-! ### The registers a host reads -/

/-- The 4-byte read at 16 r + 4 k answers digit k of the register in block r (R101, R102). -/
theorem answersWord_wide {s : State} (hs : s.rst = false) {r k : Nat} (hr : r < 4) (hk : k < 4) :
    s.answersWord (16 * r + 4 * k) ((wideRegister s r).toNat / 2 ^ (32 * k) % 2 ^ 32) := by
  have hoff : (BitVec.ofNat 8 (16 * r + 4 * k)).toNat = 16 * r + 4 * k :=
    toNat_ofNat_off (by omega)
  have hread : readWord s (BitVec.ofNat 8 (16 * r + 4 * k)) = digit (wideRegister s r) k := by
    rw [readWord_wide s (by omega), hoff]
    congr 2 <;> omega
  have hans := answersWord_readWord (o := 16 * r + 4 * k) hs (by omega) (by omega)
  rwa [hread, digit, extractLsb'_toNat_eq_div] at hans

/-- The 8-byte read at 16 r + 8 k answers limb k of the register in block r (R101, R102). -/
theorem answersLimb_wide {s : State} (hs : s.rst = false) {r k : Nat} (hr : r < 4) (hk : k < 2) :
    s.answersLimb (16 * r + 8 * k) ((wideRegister s r).toNat / 2 ^ (64 * k) % 2 ^ 64) := by
  have hoff : (BitVec.ofNat 8 (16 * r + 8 * k)).toNat = 16 * r + 8 * k :=
    toNat_ofNat_off (by omega)
  have hread : readLimb s (BitVec.ofNat 8 (16 * r + 8 * k)) = limb (wideRegister s r) k := by
    rw [readLimb_wide s (by omega), hoff]
    congr 2 <;> omega
  have hans := answersLimb_readLimb (o := 16 * r + 8 * k) hs (by omega) (by omega)
  rwa [hread, limb, extractLsb'_toNat_eq_div] at hans

/-- Byte j of the register in block r stands at 16 r + j (R102). -/
theorem windowByte_wide_toNat (s : State) {r j : Nat} (hr : r < 4) (hj : j < 16) :
    (windowByte s (BitVec.ofNat 8 (16 * r + j))).toNat =
      (wideRegister s r).toNat / 2 ^ (8 * j) % 2 ^ 8 := by
  have hoff : (BitVec.ofNat 8 (16 * r + j)).toNat = 16 * r + j :=
    toNat_ofNat_off (by omega)
  rw [windowByte_wide s (by omega), hoff, extractLsb'_toNat_eq_div,
    show (16 * r + j) / 16 = r by omega, show (16 * r + j) % 16 = j by omega]

/-- Settles O17: the 128-bit registers by block, FAULTCMD and the zero offsets by `readWord`. -/
theorem readsOfTheRegisters : Obligations.ReadsOfTheRegisters := by
  refine fun s => ⟨fun hr => ⟨fun k hk => ?digits, fun k hk => ?limbs, ?faultcmd, ?zeros⟩,
    fun j hj => ?bytes, fun j hj => ?faultcmdBytes⟩
  case digits =>
    exact ⟨answersWord_wide (r := 0) hr (by decide) hk, answersWord_wide (r := 1) hr (by decide) hk,
      answersWord_wide (r := 2) hr (by decide) hk, answersWord_wide (r := 3) hr (by decide) hk⟩
  case limbs =>
    exact ⟨answersLimb_wide (r := 0) hr (by decide) hk, answersLimb_wide (r := 1) hr (by decide) hk,
      answersLimb_wide (r := 2) hr (by decide) hk, answersLimb_wide (r := 3) hr (by decide) hk⟩
  case faultcmd => exact answersWord_readWord hr (by decide) (by decide)
  case zeros =>
    intro o ho h4 hz
    have hoff : (BitVec.ofNat 8 o).toNat = o := toNat_ofNat_off ho
    have hread : readWord s (BitVec.ofNat 8 o) = 0#32 := readWord_zero s (by rwa [hoff])
    have := answersWord_readWord hr ho h4
    rwa [hread] at this
  case bytes =>
    exact ⟨windowByte_wide_toNat s (r := 0) (by decide) hj,
      windowByte_wide_toNat s (r := 1) (by decide) hj,
      windowByte_wide_toNat s (r := 2) (by decide) hj,
      windowByte_wide_toNat s (r := 3) (by decide) hj⟩
  case faultcmdBytes =>
    rw [BitVec.ofNat_add, ← readWord_byte s (by decide) hj, extractLsb'_toNat_eq_div]
    rfl

/-! ### Refused accesses -/

/-- A refused read at the head of the inputs (R105, R110). -/
theorem step_read_refused {s : State} {off : BitVec 8} {n : Nat} {rest : List PortEvent}
    (h : s.inputs = .access (.read off n) :: rest) (hr : s.rst = false)
    (ha : ¬accepted off n = true) : step s = .next (s.withInputs rest).refuseRead := by
  rw [step_input h, performEvent_access (by simpa using hr), performAccess, if_neg ha]

/-- A refused write at the head of the inputs (R105, R110). -/
theorem step_write_refused {s : State} {off : BitVec 8} {n : Nat} {d : Word64}
    {rest : List PortEvent} (h : s.inputs = .access (.write off n d) :: rest) (hr : s.rst = false)
    (ha : ¬accepted off n = true) : step s = .next ((s.withInputs rest).respond .writeError) := by
  rw [step_input h, performEvent_access (by simpa using hr), performAccess, if_neg ha]

/-- Settles O20: the access is not one of the accepted forms, so its step is a refusal. -/
theorem refusedAccessChangesNothing : Obligations.RefusedAccessChangesNothing := by
  intro s off n d rest hr h4 h8
  have ha : ¬accepted off n = true := fun h => ((accepted_iff off n).1 h).elim h4 h8
  constructor
  · intro hi
    exact ⟨_, step_read_refused hi hr ha, by simp, by simpa using hr, by simp, _,
      State.refuseRead_response _⟩
  · exact fun hi => step_write_refused hi hr ha

/-! ### Writes to the operands -/

/-- The bits of an operand register after an accepted write within it (R107). -/
theorem getLsbD_storeWord (v : Word128) {off : BitVec 8} {n : Nat} (d : Word64)
    (h : (n = 4 ∧ off.toNat % 4 = 0) ∨ (n = 8 ∧ off.toNat % 8 = 0)) {m : Nat} (hm : m < 128) :
    (storeWord v off n d).getLsbD m =
      if 8 * (off.toNat % 16) ≤ m ∧ m < 8 * (off.toNat % 16) + 8 * n then
        d.getLsbD (m - 8 * (off.toNat % 16))
      else v.getLsbD m := by
  rcases h with ⟨rfl, h4⟩ | ⟨rfl, h8⟩
  · rw [storeWord, if_pos rfl, getLsbD_setDigit _ _ _ _ hm,
      show 32 * (off.toNat % 16 / 4) = 8 * (off.toNat % 16) by omega]
    refine if_ctx_congr Iff.rfl (fun hin => ?_) (fun _ => rfl)
    have : m - 8 * (off.toNat % 16) < 32 := by omega
    simp [this]
  · rw [storeWord, if_neg (by decide), getLsbD_setLimb _ _ _ _ hm,
      show 64 * (off.toNat % 16 / 8) = 8 * (off.toNat % 16) by omega]

/-- The bytes of an operand register after an accepted write within it (R107). -/
theorem storeWord_byte (v : Word128) {off : BitVec 8} {n : Nat} (d : Word64)
    (h : (n = 4 ∧ off.toNat % 4 = 0) ∨ (n = 8 ∧ off.toNat % 8 = 0)) {k : Nat} (hk : k < 16) :
    (storeWord v off n d).extractLsb' (8 * k) 8 =
      if off.toNat % 16 ≤ k ∧ k < off.toNat % 16 + n then
        d.extractLsb' (8 * (k - off.toNat % 16)) 8
      else v.extractLsb' (8 * k) 8 := by
  apply BitVec.eq_of_getLsbD_eq
  intro i hi
  rw [BitVec.getLsbD_extractLsb', getLsbD_storeWord v d h (by omega)]
  by_cases hin : off.toNat % 16 ≤ k ∧ k < off.toNat % 16 + n
  · rw [if_pos hin, if_pos (by omega), BitVec.getLsbD_extractLsb',
      show 8 * k + i - 8 * (off.toNat % 16) = 8 * (k - off.toNat % 16) + i by omega]
  · rw [if_neg hin, if_neg (by omega), BitVec.getLsbD_extractLsb']

/-- A byte outside OPA does not see OPA (R101). -/
theorem windowByte_setOpa (s : State) (v : Word128) {o : BitVec 8} (h : 0x10 ≤ o.toNat) :
    windowByte (s.setOpa v) o = windowByte s o := by
  simp only [windowByte, if_neg (Nat.not_lt.mpr h)]
  rfl

/-- A byte outside OPB does not see OPB (R101). -/
theorem windowByte_setOpb (s : State) (v : Word128) {o : BitVec 8}
    (h : o.toNat < 0x10 ∨ 0x20 ≤ o.toNat) :
    windowByte (s.setOpb v) o = windowByte s o := by
  rcases h with h | h
  · simp only [windowByte, if_pos h]
    rfl
  · simp only [windowByte, if_neg (Nat.not_lt.mpr h)]
    rfl

/-- The bytes of the block in which an accepted write is stored (R107). -/
theorem windowByte_of_stored_block {s t : State} {off o : BitVec 8} {n : Nat} {d : Word64}
    (hoff : off.toNat < 0x20) (h : (n = 4 ∧ off.toNat % 4 = 0) ∨ (n = 8 ∧ off.toNat % 8 = 0)) {r : Nat}
    (hr : off.toNat / 16 = r) (ho : o.toNat / 16 = r)
    (ht : wideRegister t r = storeWord (wideRegister s r) off n d) :
    windowByte t o =
      if off.toNat ≤ o.toNat ∧ o.toNat < off.toNat + n then
        d.extractLsb' (8 * (o.toNat - off.toNat)) 8
      else windowByte s o := by
  rw [windowByte_wide t (by omega), windowByte_wide s (by omega), ho, ht,
    storeWord_byte _ d h (Nat.mod_lt _ (by decide)),
    show o.toNat % 16 - off.toNat % 16 = o.toNat - off.toNat by omega]
  exact if_congr (by omega) rfl rfl

/-- The window after a store into an operand: the access's bytes are the data's, all others are as before
(R107). -/
theorem windowByte_storeAccepted (s : State) {off : BitVec 8} {n : Nat} (d : Word64)
    (hoff : off.toNat < 0x20) (h : (n = 4 ∧ off.toNat % 4 = 0) ∨ (n = 8 ∧ off.toNat % 8 = 0))
    (o : BitVec 8) :
    windowByte (storeAccepted s off n d) o =
      if off.toNat ≤ o.toNat ∧ o.toNat < off.toNat + n then
        d.extractLsb' (8 * (o.toNat - off.toNat)) 8
      else windowByte s o := by
  rcases storeAccepted_cases s off n d with ⟨ha, hst⟩ | ⟨hb, _, hst⟩ | ⟨hro, _⟩
  · rw [hst]
    by_cases ho : o.toNat < 0x10
    · exact windowByte_of_stored_block hoff h (r := 0) (by omega) (by omega) rfl
    · rw [if_neg (by omega), windowByte_setOpa s _ (by omega)]
  · rw [hst]
    by_cases ho : 0x10 ≤ o.toNat ∧ o.toNat < 0x20
    · exact windowByte_of_stored_block hoff h (r := 1) (by omega) (by omega) rfl
    · rw [if_neg (by omega), windowByte_setOpb s _ (by omega)]
  · omega

/-- Settles O21: the write is `storeAccepted`, whose window `windowByte_storeAccepted` gives. -/
theorem operandWriteReplacesExactlyItsWord : Obligations.OperandWriteReplacesExactlyItsWord := by
  intro s off n d rest hi hr hoff h
  have ha : accepted off n = true :=
    (accepted_iff off n).2 (h.imp_right fun ⟨hn, h8⟩ => ⟨hn, h8, by omega⟩)
  have hne : ∀ b : BitVec 8, 0x20 ≤ b.toNat → off ≠ b := by
    rintro b hb rfl
    omega
  refine ⟨_, step_write hi hr ha (hne _ (by decide)) (hne _ (by decide)), ?_,
    windowByte_storeAccepted _ d hoff h⟩
  obtain ⟨a, b, hst⟩ := storeAccepted_eq ((s.withInputs rest).respond .written) off n d
  rw [hst]
  rfl

/-! ### Ignored writes -/

/-- A CTRL write depends on bits 1:0 of its word alone (R64, R108). -/
theorem writeCtrl_congr (s : State) {w w' : Word32} (h0 : w.getLsbD 0 = w'.getLsbD 0)
    (h1 : w.getLsbD 1 = w'.getLsbD 1) : writeCtrl s w = writeCtrl s w' := by
  rw [writeCtrl, writeCtrl, h0, h1]

/-- Settles O22: `storeAccepted` does nothing from 0x20 on, and `writeCtrl` drops the reserved bits. -/
theorem writesToReadOnlyRegistersAreIgnored : Obligations.WritesToReadOnlyRegistersAreIgnored := by
  constructor
  · intro s off n d rest hi hr ha hro hcmd hctrl
    rw [step_write hi hr ((accepted_iff off n).2 ha) hcmd hctrl]
    rcases storeAccepted_cases ((s.withInputs rest).respond .written) off n d with
      ⟨hlow, _⟩ | ⟨_, hlow, _⟩ | ⟨_, hst⟩
    · omega
    · omega
    · rw [hst]
      rfl
  · intro s d d' rest hr h0 h1
    have run (e : Word64) : step { s with inputs := .access (.write 0x48#8 4 e) :: rest } =
        .next (writeCtrl ((s.withInputs rest).respond .written) (e.setWidth 32)) :=
      step_ctrl rfl hr
    rw [run, run, writeCtrl_congr _ (w := d.setWidth 32) (w' := d'.setWidth 32)
      (by simpa using h0) (by simpa using h1)]

/-! ### The host's addresses -/

/-- An address reaches the port as `off` exactly when it is BASE + off (R100). -/
theorem windowOffset_eq_some_iff (addr : Nat) (off : BitVec 8) :
    windowOffset addr = some off ↔ addr = Config.base + off.toNat := by
  unfold windowOffset Config.windowSize
  split
  next h =>
    rw [Option.some_inj, ← BitVec.toNat_inj, BitVec.toNat_ofNat]
    omega
  next h =>
    have := off.isLt
    simp only [reduceCtorEq, false_iff]
    omega

/-- An address outside the window does not reach the port (R100). -/
theorem windowOffset_eq_none {addr : Nat} (h : addr < Config.base ∨ Config.base + 0xFF < addr) :
    windowOffset addr = none := by
  unfold windowOffset Config.windowSize
  exact if_neg (by omega)

/-- Settles O24: from the two facts about `windowOffset`. -/
theorem windowDecodesHostAddresses : Obligations.WindowDecodesHostAddresses := by
  refine ⟨Nat.mul_mod_right 256 Config.baseBlock, windowOffset_eq_some_iff, ?inside, ?outside⟩
  case inside =>
    intro s off n v
    have hoff := (windowOffset_eq_some_iff _ off).2 rfl
    constructor
    · rw [memRead, hoff]
      rfl
    · rw [memWrite, hoff]
      rfl
  case outside =>
    intro s addr n v h
    have hoff := windowOffset_eq_none h
    constructor
    · rw [memWrite, hoff]
    · rw [memRead, hoff]

end Sys2Proof.Machine
end

section
/-! PROOFS, the encoding (spec/30_encoding.md): the decoder and the encoder, the illegal words, the operand
bits that a form ignores, and the script statements that write an operand. -/

namespace Sys2Proof.Machine

/-! ### Decoding and encoding -/

/-- The opcode map of R154 lists each command under the opcode of its own rule. -/
theorem opcode_of_mem_opcodeMap : ∀ p ∈ opcodeMap, opcode p.2 = p.1 := by
  decide

theorem opcode_of_lookup {o : BitVec 8} {i : Instr} (h : opcodeMap.lookup o = some i) :
    opcode i = o := by
  obtain ⟨l₁, l₂, hmap, _⟩ := List.lookup_eq_some_iff.mp h
  exact opcode_of_mem_opcodeMap (o, i) (by simp [hmap])

/-- A command word is its two fields, RSV above OPC (R150). -/
theorem rsvField_append_opcField (w : Word32) : rsvField w ++ opcField w = w := by
  have hslice : w.extractLsb' 8 24 ++ w.extractLsb' 0 8 = w.extractLsb' 0 32 :=
    BitVec.extractLsb'_append_extractLsb'_eq_extractLsb' rfl
  exact hslice.trans BitVec.extractLsb'_eq_self

/-- The decoder accepts a word when RSV is 0 and the map lists OPC (R151). -/
theorem decode_eq_ok_iff {w : Word32} {i : Instr} :
    decode w = .ok i ↔ rsvField w = 0 ∧ opcodeMap.lookup (opcField w) = some i := by
  unfold decode
  split
  next hrsv => exact iff_of_false (by rintro ⟨⟩) fun ⟨hzero, _⟩ => hrsv hzero
  next hrsv =>
    have hrsv : rsvField w = 0 := not_not.mp hrsv
    cases opcodeMap.lookup (opcField w) <;> simp [hrsv]

/-- No other word than its encoding decodes to a command (R150, R154). -/
theorem encode_of_decode {w : Word32} {i : Instr} (h : decode w = .ok i) : encode i = w := by
  obtain ⟨hrsv, hlookup⟩ := decode_eq_ok_iff.mp h
  calc encode i = 0#24 ++ opcode i := rfl
    _ = rsvField w ++ opcField w := by rw [hrsv, opcode_of_lookup hlookup]; rfl
    _ = w := rsvField_append_opcField w

/-- Settles O1. -/
theorem decodeAndEncodeAreInverse : Obligations.DecodeAndEncodeAreInverse :=
  ⟨fun i _ => decode_encode i, fun _ _ => encode_of_decode⟩

/-- Settles O3, by evaluation of the decoder on the eleven words. -/
theorem writtenOutWordsDecode : Obligations.WrittenOutWordsDecode := by
  unfold Obligations.WrittenOutWordsDecode
  decide

/-! ### The illegal words -/

/-- A command's word is legal (R151, R154). -/
theorem legalWord_encode (i : Instr) : legalWord (encode i) = true := by
  cases i <;> rfl

/-- The decoder accepts exactly the words that R155 does not list. -/
theorem legalWord_iff_decode {w : Word32} : legalWord w = true ↔ ∃ i, decode w = .ok i := by
  constructor
  · intro hl
    cases hd : decode w with
    | ok i => exact ⟨i, rfl⟩
    | error e => exact absurd ((legalWord_of_decode_error hd).symm.trans hl) Bool.false_ne_true
  · rintro ⟨i, hd⟩
    rw [← encode_of_decode hd]
    exact legalWord_encode i

/-- An opcode is listed when it is in none of R155's illegal ranges. -/
theorem opcodeListed_iff (w : Word32) :
    opcodeListed w = true ↔
      ¬∃ r ∈ illegalOpcodeRanges, r.1 ≤ w.toNat % 256 ∧ w.toNat % 256 ≤ r.2 := by
  simp only [opcodeListed, List.all_eq_true, Bool.not_eq_true', ← Bool.not_eq_true,
    Bool.and_eq_true, decide_eq_true_eq, not_exists, not_and]

/-- The legality check in the words of R155. -/
theorem legalWord_iff_not_listed (w : Word32) :
    legalWord w = true ↔ ¬(w.toNat / 256 ≠ 0 ∨
      ∃ r ∈ illegalOpcodeRanges, r.1 ≤ w.toNat % 256 ∧ w.toNat % 256 ≤ r.2) := by
  rw [legalWord, Bool.and_eq_true, opcodeListed_iff, reservedClear, beq_iff_eq, not_or, not_not]

/-- Issued outside the fault state, an illegal word raises IllegalOperation (R602). -/
theorem issue_illegal {w : Word32} {s : State} (hw : legalWord w = false) (hs : s.faulted = false) :
    issue w s = .next (s.raise .illegalOperation w) := by
  rcases issue_cases w s with ⟨hf, _⟩ | ⟨_, _, _, hraise⟩ | ⟨_, i, hd, _⟩
  · exact absurd (hs.symm.trans hf) Bool.false_ne_true
  · exact hraise
  · exact absurd (hw.symm.trans (legalWord_iff_decode.mpr ⟨i, hd⟩)) Bool.false_ne_true

/-- Settles O2: the listed words are those `legalWord` refuses, and the decoder refuses the same. -/
theorem illegalWordsAreExactlyTheListed : Obligations.IllegalWordsAreExactlyTheListed := by
  refine fun w => ⟨fun hlisted s hs => ?_, fun hlegal => ?_⟩
  · have hw : legalWord w = false :=
      Bool.eq_false_iff.mpr fun hl => (legalWord_iff_not_listed w).mp hl hlisted
    exact issue_illegal hw hs
  · exact legalWord_iff_decode.mp ((legalWord_iff_not_listed w).mpr hlegal)

/-! ### The operand bits a form ignores -/

/-- The low limb is bits 63:0 (R9). -/
theorem lower_congr {v v' : Word128} (h : ∀ k < 64, v.getLsbD k = v'.getLsbD k) :
    lower v = lower v' := by
  apply BitVec.eq_of_getLsbD_eq
  intro k hk
  simp [lower, hk, h k hk]

theorem operandA64_setOperands {s : State} {a b : Word128}
    (h : ∀ k < 64, a.getLsbD k = s.opa.getLsbD k) :
    operandA64 ((s.setOpa a).setOpb b) = operandA64 s :=
  lower_congr h

theorem operandB64_setOperands {s : State} {a b : Word128}
    (h : ∀ k < 64, b.getLsbD k = s.opb.getLsbD k) :
    operandB64 ((s.setOpa a).setOpb b) = operandB64 s :=
  lower_congr h

/-- The shift amount is B[6:0] (R404). -/
theorem shiftAmount_setOperands {s : State} {a b : Word128}
    (h : ∀ k < 7, b.getLsbD k = s.opb.getLsbD k) :
    shiftAmount ((s.setOpa a).setOpb b) = shiftAmount s := by
  refine congrArg BitVec.toNat (BitVec.eq_of_getLsbD_eq fun k hk => ?_)
  simp [hk, h k hk]

/-- The divisor check, with other values in the operand registers that it does not look at itself. -/
theorem unlessZeroDivisor_setOperands {i : Instr} {d : Nat} {s done t : State} (a b : Word128)
    (h : unlessZeroDivisor i d s done = .next t) :
    unlessZeroDivisor i d ((s.setOpa a).setOpb b) ((done.setOpa a).setOpb b) =
      .next ((t.setOpa a).setOpb b) := by
  rcases unlessZeroDivisor_cases h with ⟨rfl, rfl⟩ | ⟨hd, rfl⟩
  · rfl
  · exact unlessZeroDivisor_pos hd _ _

theorem completeFInt_setOperands (s : State) (a b : Word128) (r : Word64) :
    ((s.setOpa a).setOpb b).completeFInt r = ((s.completeFInt r).setOpa a).setOpb b := rfl

/-- A command keeps its own operands, so setting them again in its result changes nothing (R51). -/
theorem exec_setOperands_self {i : Instr} {s t : State} (h : exec i s = .next t) :
    (t.setOpa s.opa).setOpb s.opb = t := by
  obtain ⟨hopa, hopb⟩ := exec_keeps_operands h
  rw [← hopa, ← hopb]
  rfl

/-- Settles O35: by form, each command reads through the accessors of its form, which agree. -/
theorem ignoredOperandBitsDoNotMatter : Obligations.IgnoredOperandBitsDoNotMatter := by
  intro i s t a b h hform
  change exec i ((s.setOpa a).setOpb b) = .next ((t.setOpa a).setOpb b)
  cases i
  case nop =>
    cases h
    rfl
  case not | neg | fxfromint128 =>
    obtain rfl := hform
    cases h
    rfl
  case sll | srl | sra =>
    obtain ⟨rfl, hb⟩ := hform
    have hn := shiftAmount_setOperands (a := s.opa) hb
    simp only [exec, execSll, execSrl, execSra, hn]
    cases h
    rfl
  case zext64 | sext64 | fxneg64 | fxfromint64 =>
    have ha := operandA64_setOperands (b := b) hform
    simp only [exec, execZext64, execSext64, execFxneg64, execFxfromint64, ha]
    cases h
    rfl
  case mul64 | fxadd64 | fxsub64 | fxmul64 =>
    have ha := operandA64_setOperands (b := b) fun k hk => (hform k hk).1
    have hb := operandB64_setOperands (a := a) fun k hk => (hform k hk).2
    simp only [exec, execMul64, execFxadd64, execFxsub64, execFxmul64, ha, hb]
    cases h
    rfl
  case fxdiv64 | fxmod64 =>
    have ha := operandA64_setOperands (b := b) fun k hk => (hform k hk).1
    have hb := operandB64_setOperands (a := a) fun k hk => (hform k hk).2
    simp only [exec, execFxdiv64, execFxmod64] at h
    simp only [exec, execFxdiv64, execFxmod64, ha, hb, completeFInt_setOperands]
    exact unlessZeroDivisor_setOperands a b h
  -- the commands of the form bin128, which ignores no bit
  all_goals
    obtain ⟨rfl, rfl⟩ := hform
    rwa [exec_setOperands_self h]

/-! ### The script statements `wa` and `wb` -/

/-- `s` with a value in the operand register of block `r` of the window (R101): OPA in block 0, OPB in 1. -/
def State.setOperand (s : State) : Nat → Word128 → State
  | 0, v => s.setOpa v
  | _, v => s.setOpb v

theorem setOperand_wideRegister (s : State) {r : Nat} (hr : r < 2) :
    s.setOperand r (wideRegister s r) = s := by
  interval_cases r <;> rfl

theorem State.setOperand_inputs (s : State) (r : Nat) (v : Word128) :
    (s.setOperand r v).inputs = s.inputs := by
  cases r <;> rfl

theorem State.setOperand_rst (s : State) (r : Nat) (v : Word128) :
    (s.setOperand r v).rst = s.rst := by
  cases r <;> rfl

theorem State.withInputs_of_eq {s : State} {es : List PortEvent} (h : s.inputs = es) :
    s.withInputs es = s := by
  subst h
  rfl

/-- The input by which a host writes digit k of the operand register in block r (R101, R158). -/
def digitWrite (r k : Nat) (w : Word32) : PortEvent :=
  .access (.write (BitVec.ofNat 8 (16 * r + 4 * k)) 4 (w.setWidth 64))

theorem toNat_digitOffset {r k : Nat} (hr : r < 2) (hk : k < 4) :
    (BitVec.ofNat 8 (16 * r + 4 * k)).toNat = 16 * r + 4 * k :=
  toNat_ofNat_off (by omega)

/-- A store at the offset of digit k of block r sets that digit (R107). -/
theorem storeAccepted_digit (s : State) {r k : Nat} (x : Word128) (w : Word32) (hr : r < 2)
    (hk : k < 4) :
    storeAccepted (s.setOperand r x) (BitVec.ofNat 8 (16 * r + 4 * k)) 4 (w.setWidth 64) =
      s.setOperand r (setDigit x k w) := by
  have hoff := toNat_digitOffset hr hk
  have hstore : storeWord x (BitVec.ofNat 8 (16 * r + 4 * k)) 4 (w.setWidth 64) = setDigit x k w := by
    rw [storeWord, if_pos rfl, hoff, show (16 * r + 4 * k) % 16 / 4 = k by omega,
      BitVec.setWidth_setWidth_of_le _ (by decide), BitVec.setWidth_eq]
  rw [← hstore]
  rcases storeAccepted_cases (s.setOperand r x) (BitVec.ofNat 8 (16 * r + 4 * k)) 4
      (w.setWidth 64) with ⟨ho, hst⟩ | ⟨ho, _, hst⟩ | ⟨ho, _⟩
  · obtain rfl : r = 0 := by omega
    exact hst
  · obtain rfl : r = 1 := by omega
    exact hst
  · omega

/-- The step that takes the write of a digit (R107, R120). -/
theorem step_digitWrite {s : State} {r k : Nat} {x : Word128} {w : Word32} {rest : List PortEvent}
    (hr : r < 2) (hk : k < 4) (hrst : s.rst = false) :
    step ((s.setOperand r x).withInputs (digitWrite r k w :: rest)) =
      .next (((s.respond .written).setOperand r (setDigit x k w)).withInputs rest) := by
  have hoff := toNat_digitOffset hr hk
  have hne : ∀ c : BitVec 8, 0x20 ≤ c.toNat → BitVec.ofNat 8 (16 * r + 4 * k) ≠ c := by
    rintro c hc rfl
    omega
  have hacc : accepted (BitVec.ofNat 8 (16 * r + 4 * k)) 4 = true :=
    (accepted_iff _ _).2 (.inl ⟨rfl, by omega⟩)
  have htaken : (((s.setOperand r x).withInputs (digitWrite r k w :: rest)).withInputs rest).respond
      .written = ((s.respond .written).withInputs rest).setOperand r x := by
    interval_cases r <;> rfl
  have hrest : ((s.respond .written).withInputs rest).setOperand r (setDigit x k w) =
      ((s.respond .written).setOperand r (setDigit x k w)).withInputs rest := by
    interval_cases r <;> rfl
  have hin : ((s.setOperand r x).withInputs (digitWrite r k w :: rest)).inputs =
      .access (.write (BitVec.ofNat 8 (16 * r + 4 * k)) 4 (w.setWidth 64)) :: rest := rfl
  rw [step_write hin ((State.setOperand_rst s r x).trans hrst) hacc (hne _ (by decide))
    (hne _ (by decide)), htaken, storeAccepted_digit _ _ _ hr hk, hrest]

/-- Writing digit k of `v` over a register that agrees with `v` below it extends the agreement by a digit. -/
theorem setDigit_digit_agrees {x v : Word128} {k : Nat} (hk : k < 4)
    (h : ∀ m < 32 * k, x.getLsbD m = v.getLsbD m) :
    ∀ m < 32 * (k + 1), (setDigit x k (digit v k)).getLsbD m = v.getLsbD m := by
  intro m hm
  rw [getLsbD_setDigit _ _ _ _ (by omega)]
  split
  next hin =>
    have hbit : m - 32 * k < 32 := by omega
    have hsum : 32 * k + (m - 32 * k) = m := by omega
    simp [digit, hbit, hsum]
  next hout => exact h m (by omega)

/-- A register whose four digits are written in turn holds the value, whatever it held before. -/
theorem setDigit_digits (x v : Word128) :
    setDigit (setDigit (setDigit (setDigit x 0 (digit v 0)) 1 (digit v 1)) 2 (digit v 2)) 3
      (digit v 3) = v := by
  apply BitVec.eq_of_getLsbD_eq
  have below : ∀ m < 32 * 0, x.getLsbD m = v.getLsbD m := fun m hm => absurd hm (by omega)
  exact setDigit_digit_agrees (by decide) (setDigit_digit_agrees (by decide)
    (setDigit_digit_agrees (by decide) (setDigit_digit_agrees (by decide) below)))

/-- Offered accesses stand behind the inputs already there, in order (R120). -/
theorem offerAll_eq (s : State) (as : List Access) :
    offerAll s as = s.withInputs (s.inputs ++ as.map .access) := by
  induction as generalizing s with
  | nil => simp [offerAll, State.withInputs]
  | cons a as ih =>
    change offerAll (offer s a) as = _
    rw [ih]
    simp [offer, State.withInputs]

/-- The four writes of `writeDigits`, offered to an idle unit, set the operand register in four steps. -/
theorem steps_writeDigits {s : State} {r : Nat} (v : Word128) (hr : r < 2) (hrst : s.rst = false)
    (hi : s.inputs = []) :
    ∃ t₁ t₂ t₃, step (offerAll s (writeDigits (16 * r) v)) = .next t₁ ∧ step t₁ = .next t₂ ∧
      step t₂ = .next t₃ ∧ step t₃ = .next ((s.respond .written).setOperand r v) := by
  have hoffered : offerAll s (writeDigits (16 * r) v) =
      (s.setOperand r (wideRegister s r)).withInputs
        [digitWrite r 0 (digit v 0), digitWrite r 1 (digit v 1), digitWrite r 2 (digit v 2),
          digitWrite r 3 (digit v 3)] := by
    rw [offerAll_eq, hi, setOperand_wideRegister s hr]
    rfl
  have hdone : ((s.respond .written).setOperand r v).withInputs [] =
      (s.respond .written).setOperand r v :=
    State.withInputs_of_eq ((State.setOperand_inputs _ r v).trans hi)
  have hnext : ∀ {k x rest}, k < 4 →
      step (((s.respond .written).setOperand r x).withInputs (digitWrite r k (digit v k) :: rest)) =
        .next (((s.respond .written).setOperand r (setDigit x k (digit v k))).withInputs rest) :=
    fun hk => step_digitWrite (s := s.respond .written) hr hk hrst
  rw [hoffered, ← hdone]
  refine ⟨_, _, _, step_digitWrite hr (by decide) hrst, hnext (by decide), hnext (by decide),
    (hnext (by decide)).trans ?_⟩
  rw [setDigit_digits]

/-- Settles O27: OPA is the operand in block 0 of the window and OPB that in block 1. -/
theorem scriptWritesSetTheOperand : Obligations.ScriptWritesSetTheOperand :=
  fun _ v hrst hi =>
    ⟨steps_writeDigits (r := 0) v (by decide) hrst hi, steps_writeDigits (r := 1) v (by decide) hrst hi⟩

end Sys2Proof.Machine
end

section
/-! PROOFS, the adder/subtractor (spec/40_addsub.md): NOP, ADD and SUB, the limb-by-limb reference forms,
and the laws of the adder. -/

namespace Sys2Proof.Machine

/-! ### bv_N of an integer (R10) -/

/-- u(bv_N(i)) is i mod 2^N (R10). -/
theorem ofInt_toNat_cast {w : Nat} (i : Int) : ((BitVec.ofInt w i).toNat : Int) = i % 2 ^ w := by
  have hpos : (0 : Int) < 2 ^ w := by positivity
  rw [BitVec.toNat_ofInt, Nat.cast_pow, Nat.cast_ofNat,
    Int.toNat_of_nonneg (Int.emod_nonneg i hpos.ne')]

/-- bv_N(u(a) - u(b)) is the bit-vector difference. -/
theorem ofInt_toNat_sub {w : Nat} (a b : BitVec w) :
    BitVec.ofInt w ((a.toNat : Int) - (b.toNat : Int)) = a - b := by
  rw [Int.sub_eq_add_neg, BitVec.ofInt_add, BitVec.ofInt_neg, BitVec.ofInt_natCast,
    BitVec.ofInt_natCast, BitVec.ofNat_toNat, BitVec.ofNat_toNat, BitVec.setWidth_eq,
    BitVec.setWidth_eq, BitVec.sub_eq_add_neg]

/-- The unsigned value of a difference is the difference of the unsigned values, wrapped. -/
theorem toNat_sub_cast {w : Nat} (a b : BitVec w) :
    ((a - b).toNat : Int) = ((a.toNat : Int) - (b.toNat : Int)) % 2 ^ w := by
  rw [← ofInt_toNat_sub, ofInt_toNat_cast]

/-! ### What ADD, SUB and NEG do -/

/-- ADD writes the bit-vector sum, and the carry as C (R201). -/
theorem exec_add (s : State) :
    exec .add s = .next (s.complete (s.opa + s.opb) (carryOut s.opa s.opb) .none) := rfl

/-- SUB writes the bit-vector difference, and the borrow as C (R202). -/
theorem exec_sub (s : State) :
    exec .sub s = .next (s.complete (s.opa - s.opb) (borrowOut s.opa s.opb) .none) := by
  rw [← ofInt_toNat_sub]
  rfl

/-- NEG writes the bit-vector negation (R501). -/
theorem exec_neg (s : State) : exec .neg s = .next (s.complete (-s.opa) false .none) := by
  rw [← negate_eq_neg]
  rfl

theorem eq_of_exec_add {s t : State} (h : exec .add s = .next t) :
    t = s.complete (s.opa + s.opb) (carryOut s.opa s.opb) .none :=
  Host.Outcome.next.inj (h.symm.trans (exec_add s))

theorem eq_of_exec_sub {s t : State} (h : exec .sub s = .next t) :
    t = s.complete (s.opa - s.opb) (borrowOut s.opa s.opb) .none :=
  Host.Outcome.next.inj (h.symm.trans (exec_sub s))

theorem eq_of_exec_neg {s t : State} (h : exec .neg s = .next t) :
    t = s.complete (-s.opa) false .none :=
  Host.Outcome.next.inj (h.symm.trans (exec_neg s))

/-- Settles O37: the bit-vector sum and difference, read as integers. -/
theorem adderCommands : Obligations.AdderCommands := by
  refine ⟨⟨rfl, rfl, rfl⟩, fun s => ⟨rfl, fun hf => ?faulted, ?add, ?sub⟩⟩
  case faulted => exact if_pos hf
  case add => exact ⟨_, _, exec_add s, BitVec.toNat_add _ _, decide_eq_true_iff⟩
  case sub => exact ⟨_, _, exec_sub s, toNat_sub_cast _ _, decide_eq_true_iff⟩

/-! ### The limb-by-limb reference forms -/

/-- "result < operand" is the carry out of a limb's addition (R203). -/
theorem limb_carry {x y : Nat} (hx : x < 2 ^ 64) (hy : y < 2 ^ 64) :
    (if (x + y) % 2 ^ 64 < x then 1 else 0) = (x + y) / 2 ^ 64 := by
  split <;> omega

/-- "dividend < subtrahend" is the borrow out of a limb's subtraction (R204). -/
theorem limb_borrow {x y : Nat} (hx : x < 2 ^ 64) (hy : y < 2 ^ 64) :
    (if x < y then (1 : Int) else 0) = -(((x : Int) - (y : Int)) / 2 ^ 64) := by
  split <;> omega

/-- R203's reference adder is addition. -/
theorem addByLimbs_eq_add (a b : Word128) : addByLimbs a b = a + b := by
  apply BitVec.eq_of_toNat_eq
  rw [addByLimbs, toNat_append_eq_add, BitVec.toNat_ofNat, BitVec.toNat_ofNat,
    limb_carry (lower a).isLt (lower b).isLt, BitVec.toNat_add, upper_toNat, upper_toNat,
    lower_toNat, lower_toNat]
  omega

/-- R204's reference subtractor is subtraction. -/
theorem subByLimbs_eq_sub (a b : Word128) : subByLimbs a b = a - b := by
  apply BitVec.eq_of_toNat_eq
  apply Int.ofNat_inj.mp
  rw [subByLimbs, toNat_append_eq_add, Nat.cast_add, Nat.cast_mul, ofInt_toNat_cast,
    ofInt_toNat_cast, limb_borrow (lower a).isLt (lower b).isLt, toNat_sub_cast, upper_toNat,
    upper_toNat, lower_toNat, lower_toNat]
  omega

/-- Settles O38: each reference form is the bit-vector operation its command runs. -/
theorem limbwiseAdderGivesTheSameResults : Obligations.LimbwiseAdderGivesTheSameResults := by
  refine fun s t => ⟨fun h => ?add, fun h => ?sub⟩
  case add => rw [eq_of_exec_add h, State.complete_y, addByLimbs_eq_add]
  case sub => rw [eq_of_exec_sub h, State.complete_y, subByLimbs_eq_sub]

/-! ### The laws of the adder -/

theorem carryOut_comm (a b : Word128) : carryOut a b = carryOut b a := by
  rw [carryOut, carryOut, Nat.add_comm]

/-- Settles O39: ADD, SUB and NEG are the operations of the group of 128-bit words. -/
theorem adderLaws : Obligations.AdderLaws := by
  refine fun s t => ⟨fun h => ?zero, fun h t' h' => ?comm, fun h t' h' => ?inverse,
    fun h t' t'' h' h'' => ?subAsAdd, fun h t' h' => ?cancel⟩
  case zero =>
    obtain rfl := eq_of_exec_add h
    exact BitVec.add_zero s.opa
  case comm =>
    obtain rfl := eq_of_exec_add h
    obtain rfl := eq_of_exec_add h'
    exact ⟨BitVec.add_comm s.opb s.opa, carryOut_comm s.opb s.opa⟩
  case inverse =>
    obtain rfl := eq_of_exec_neg h
    obtain rfl := eq_of_exec_add h'
    exact congrArg BitVec.toNat (BitVec.add_right_neg s.opa)
  case subAsAdd =>
    obtain rfl := eq_of_exec_neg h
    obtain rfl := eq_of_exec_add h'
    obtain rfl := eq_of_exec_sub h''
    exact BitVec.sub_eq_add_neg s.opa s.opb
  case cancel =>
    obtain rfl := eq_of_exec_sub h
    obtain rfl := eq_of_exec_add h'
    exact BitVec.sub_add_cancel s.opa s.opb

end Sys2Proof.Machine
end

section
/-! PROOFS, the multiplier (spec/41_multiply.md): MUL and MUL64, and the schoolbook reference algorithms. -/

namespace Sys2Proof.Machine

/-! ### What MUL and MUL64 do -/

/-- The product of two limbs fits a wide integer (R251). -/
theorem limb_mul_lt (a b : Word64) : a.toNat * b.toNat < 2 ^ 128 :=
  calc a.toNat * b.toNat < 2 ^ 64 * 2 ^ 64 := Nat.mul_lt_mul'' a.isLt b.isLt
    _ = 2 ^ 128 := (Nat.pow_add 2 64 64).symm

/-- MUL writes the bit-vector product and the tier of the unsigned patterns (R250). -/
theorem exec_mul (s : State) :
    exec .mul s = .next (s.complete (s.opa * s.opb) false
      (tierMul s.force128 s.opa.toNat s.opb.toNat)) := by
  rw [BitVec.mul_def]
  rfl

/-- MUL64 writes the product of the low limbs, and T64 (R251). -/
theorem exec_mul64 (s : State) :
    exec .mul64 s = .next (s.complete
      (BitVec.ofNat 128 ((lower s.opa).toNat * (lower s.opb).toNat)) false .t64) := rfl

/-- Settles O46: MUL is the bit-vector product, and the product MUL64 writes does not wrap. -/
theorem multiplyCommands : Obligations.MultiplyCommands := by
  refine ⟨⟨rfl, rfl⟩, fun s => ⟨?mul, ?mul64⟩⟩
  case mul => exact ⟨_, exec_mul s, BitVec.toNat_mul _ _⟩
  case mul64 =>
    refine ⟨_, exec_mul64 s, ?_⟩
    rw [BitVec.toNat_ofNat, Nat.mod_eq_of_lt (limb_mul_lt _ _), lower_toNat, lower_toNat]

/-! ### The schoolbook reference algorithms -/

/-- A limb is its two 32-bit halves (R252). -/
theorem toNat_eq_halves (a : Word64) :
    a.toNat = (a.extractLsb' 32 32).toNat * 2 ^ 32 + (a.extractLsb' 0 32).toNat := by
  have := a.isLt
  rw [extractLsb'_toNat_eq_div, extractLsb'_toNat_eq_div]
  omega

/-- A wide integer is its two limbs (R54). -/
theorem toNat_eq_limbs (a : Word128) :
    a.toNat = (upper a).toNat * 2 ^ 64 + (lower a).toNat := by
  rw [lower_toNat, upper_toNat, Nat.div_add_mod']

/-- The product of two numbers of two digits in base 2^w is the weighted sum of the partial products. -/
theorem two_digit_mul (w a0 a1 b0 b1 : Nat) :
    (a1 * 2 ^ w + a0) * (b1 * 2 ^ w + b0) =
      a1 * b1 * 2 ^ (w * 2) + (a0 * b1 + a1 * b0) * 2 ^ w + a0 * b0 := by
  ring

/-- R252's carry propagation by way of `mid`: the two limbs it builds weigh what the partial products weigh. -/
theorem schoolbook_carries {p00 p01 p10 p11 mid : Nat}
    (hmid : mid = p00 / 2 ^ 32 + p01 % 2 ^ 32 + p10 % 2 ^ 32) :
    (p11 + p01 / 2 ^ 32 + p10 / 2 ^ 32 + mid / 2 ^ 32) * 2 ^ 64 +
        (p00 % 2 ^ 32 + 2 ^ 32 * (mid % 2 ^ 32)) =
      p11 * 2 ^ 64 + (p01 + p10) * 2 ^ 32 + p00 := by
  omega

/-- Two limbs that hold the parts of a number below 2^128 hold the number. -/
theorem ofNat_append_ofNat_toNat {hi lo n : Nat} (hlo : lo < 2 ^ 64) (hn : n < 2 ^ 128)
    (hsum : hi * 2 ^ 64 + lo = n) : (BitVec.ofNat 64 hi ++ BitVec.ofNat 64 lo).toNat = n := by
  have hhi : hi < 2 ^ 64 := by omega
  rw [toNat_append_eq_add, BitVec.toNat_ofNat, BitVec.toNat_ofNat, Nat.mod_eq_of_lt hhi,
    Nat.mod_eq_of_lt hlo, hsum]

/-- R252's primitive is the exact product. -/
theorem mul64ByHalves_toNat (a b : Word64) : (mul64ByHalves a b).toNat = a.toNat * b.toNat := by
  refine ofNat_append_ofNat_toNat ?lowFits (limb_mul_lt a b) ?sum
  case lowFits => omega
  case sum => rw [schoolbook_carries rfl, toNat_eq_halves a, toNat_eq_halves b, two_digit_mul]

/-- Added to the high limb of `p`, the cross terms lose what they carry out of it, and the product of the
upper limbs is lost whole: the low 128 bits do not have them (R253). -/
theorem limbs_add_cross (p cross high : Nat) :
    (p / 2 ^ 64 + cross % 2 ^ 64) % 2 ^ 64 * 2 ^ 64 + p % 2 ^ 64 =
      (high * 2 ^ 128 + cross * 2 ^ 64 + p) % 2 ^ 128 := by
  omega

/-- R253's composition is multiplication. -/
theorem mulByLimbs_eq_mul (a b : Word128) : mulByLimbs a b = a * b := by
  apply BitVec.eq_of_toNat_eq
  rw [mulByLimbs, toNat_append_eq_add, BitVec.toNat_ofNat, BitVec.toNat_ofNat, upper_toNat,
    lower_toNat (mul64ByHalves _ _), mul64ByHalves_toNat,
    limbs_add_cross _ _ ((upper a).toNat * (upper b).toNat), BitVec.toNat_mul, toNat_eq_limbs a,
    toNat_eq_limbs b, two_digit_mul]

/-- Settles O47: the primitive is the exact product, and the composition the bit-vector product. -/
theorem schoolbookMultiplierIsTheProduct : Obligations.SchoolbookMultiplierIsTheProduct := by
  refine ⟨mul64ByHalves_toNat, fun a b => ?_⟩
  rw [mulByLimbs_eq_mul, BitVec.toNat_mul]

end Sys2Proof.Machine
end

section
/-! PROOFS, the division commands (spec/42_divide.md): the three tiers, DIVU and REMU, and the division
identity. -/

namespace Sys2Proof.Machine

/-- Settles O49: one lemma per algorithm. -/
theorem everyDividerTierIsFloorDivision : Obligations.EveryDividerTierIsFloorDivision := by
  refine fun a b ha hb hb0 => ⟨fun _ _ => ?t64, fun hdigit => ?t96, ?t128⟩
  case t64 => rfl
  case t96 => exact divmodT96_eq ha hb0 hdigit
  case t128 => exact divmodT128_eq ha hb hb0

/-! ### What DIVU and REMU do -/

/-- The divider of the selected tier, on the patterns of two words, gives the bit-vector quotient and
remainder. -/
theorem divmodTier_tierDiv_words (f : Bool) (a : Word128) {b : Word128} (hb : b.toNat ≠ 0) :
    BitVec.ofNat 128 (divmodTier (tierDiv f a.toNat b.toNat) a.toNat b.toNat).1 = a / b ∧
      BitVec.ofNat 128 (divmodTier (tierDiv f a.toNat b.toNat) a.toNat b.toNat).2 = a % b := by
  rw [divmodTier_tierDiv f a.isLt b.isLt hb]
  exact ⟨BitVec.udiv_def.symm, BitVec.umod_def.symm⟩

/-- DIVU writes the bit-vector quotient and remainder, and the tier of the patterns (R300). -/
theorem exec_divu {s : State} (hb : s.opb.toNat ≠ 0) :
    exec .divu s = .next (s.completeDivide (s.opa / s.opb) (s.opa % s.opb)
      (tierDiv s.force128 s.opa.toNat s.opb.toNat)) := by
  obtain ⟨hq, hr⟩ := divmodTier_tierDiv_words s.force128 s.opa hb
  rw [← hq, ← hr]
  exact unlessZeroDivisor_pos hb _ _

/-- REMU writes the bit-vector remainder to Y, and the tier of the patterns (R301). -/
theorem exec_remu {s : State} (hb : s.opb.toNat ≠ 0) :
    exec .remu s = .next (s.complete (s.opa % s.opb) false
      (tierDiv s.force128 s.opa.toNat s.opb.toNat)) := by
  obtain ⟨_, hr⟩ := divmodTier_tierDiv_words s.force128 s.opa hb
  rw [← hr]
  exact unlessZeroDivisor_pos hb _ _

/-- With a zero divisor DIVU and REMU raise DivideByZero with their own word (R302). -/
theorem exec_unsigned_divide_zero {i : Instr} {s : State} (hi : i = .divu ∨ i = .remu)
    (hb : s.opb.toNat = 0) : exec i s = .next (s.raise .divideByZero (encode i)) := by
  rcases hi with rfl | rfl <;> exact if_pos hb

/-- Settles O50: the bit-vector quotient and remainder, read as integers. -/
theorem unsignedDivideCommands : Obligations.UnsignedDivideCommands := by
  refine ⟨⟨rfl, rfl⟩, fun s => ⟨fun hb => ⟨?divu, ?remu⟩, fun hb => ⟨?divuZero, ?remuZero⟩⟩⟩
  case divu => exact ⟨_, _, exec_divu hb, BitVec.toNat_udiv, BitVec.toNat_umod⟩
  case remu => exact ⟨_, exec_remu hb, BitVec.toNat_umod⟩
  case divuZero => exact exec_unsigned_divide_zero (.inl rfl) hb
  case remuZero => exact exec_unsigned_divide_zero (.inr rfl) hb

/-! ### The division identity -/

/-- Quotient times divisor does not wrap: it is the dividend less the remainder. -/
theorem udiv_mul_toNat_add_umod_toNat (a b : Word128) :
    (a / b * b).toNat + (a % b).toNat = a.toNat := by
  have hfits : a.toNat / b.toNat * b.toNat < 2 ^ 128 :=
    Nat.lt_of_le_of_lt (Nat.div_mul_le_self _ _) a.isLt
  rw [BitVec.toNat_mul, BitVec.toNat_udiv, BitVec.toNat_umod, Nat.mod_eq_of_lt hfits,
    Nat.div_add_mod']

/-- The division identity on words: the wrapped product and sum give the dividend back. -/
theorem udiv_mul_add_umod (a b : Word128) : a / b * b + a % b = a := by
  apply BitVec.eq_of_toNat_eq
  rw [BitVec.toNat_add, udiv_mul_toNat_add_umod_toNat, Nat.mod_eq_of_lt a.isLt]

/-- Settles O51: quotient times divisor and the remainder add up to the dividend without a carry. -/
theorem divisionIdentity : Obligations.DivisionIdentity := by
  intro s t m r hb hdiv hmul hadd
  obtain rfl := Host.Outcome.next.inj ((exec_divu hb).symm.trans hdiv)
  obtain rfl := Host.Outcome.next.inj ((exec_mul _).symm.trans hmul)
  obtain rfl := eq_of_exec_add hadd
  refine ⟨udiv_mul_add_umod s.opa s.opb, ?noCarry, ?noWrap⟩
  case noCarry =>
    exact decide_eq_false (Nat.not_le_of_lt
      ((udiv_mul_toNat_add_umod_toNat s.opa s.opb).trans_lt s.opa.isLt))
  case noWrap =>
    rw [State.completeDivide_y, State.completeDivide_z, BitVec.toNat_udiv, BitVec.toNat_umod,
      Nat.div_add_mod']

end Sys2Proof.Machine
end

section
/-! PROOFS, the fast-path selection mux (spec/43_fastpath_mux.md): FORCE128 moves the tier a command reports
and nothing else. -/

namespace Sys2Proof.Machine

/-! ### What the signed divides do, in every tier -/

/-- A nonzero divisor has a nonzero magnitude (R14). -/
theorem magnitude_toNat_ne_zero {b : Word128} (hb : b.toNat ≠ 0) : (magnitude b).toNat ≠ 0 := by
  rw [magnitude_toNat, Int.natAbs_ne_zero, ← BitVec.toInt_zero (w := 128), Ne, BitVec.toInt_inj]
  rintro rfl
  exact hb rfl

/-- The signed divider of the selected tier gives the bit-vector truncated quotient and remainder (R509). -/
theorem signedDivmod_signedTier (f : Bool) (a : Word128) {b : Word128} (hb : b.toNat ≠ 0) :
    signedDivmod (signedTier f a b) a b = (a.sdiv b, a.srem b) := by
  obtain ⟨hq, hr⟩ := divmodTier_tierDiv_words f (magnitude a) (magnitude_toNat_ne_zero hb)
  simp only [signedDivmod, signedTier, hq, hr]
  simp only [magnitude, negate_eq_neg, BitVec.sdiv_eq, BitVec.srem_eq]
  cases a.msb <;> cases b.msb <;> rfl

/-- DIVS writes the truncated quotient and remainder, and the tier of the magnitudes (R510, R353). -/
theorem exec_divs {s : State} (hb : s.opb.toNat ≠ 0) :
    exec .divs s = .next (s.completeDivide (s.opa.sdiv s.opb) (s.opa.srem s.opb)
      (signedTier s.force128 s.opa s.opb)) := by
  have hqr := signedDivmod_signedTier s.force128 s.opa hb
  simp only [exec, execDivs, operandA, operandB, hqr, unlessZeroDivisor_pos hb]

/-- REMS writes the truncated remainder to Y, and the tier of the magnitudes (R511, R353). -/
theorem exec_rems {s : State} (hb : s.opb.toNat ≠ 0) :
    exec .rems s = .next (s.complete (s.opa.srem s.opb) false
      (signedTier s.force128 s.opa s.opb)) := by
  have hqr := signedDivmod_signedTier s.force128 s.opa hb
  simp only [exec, execRems, operandA, operandB, hqr, unlessZeroDivisor_pos hb]

/-- FXDIV128 writes the truncated quotient of the prescaled dividend, and the tier of the magnitudes of
the two (R561, R355). -/
theorem exec_fxdiv128 {s : State} (hb : s.opb.toNat ≠ 0) :
    exec .fxdiv128 s = .next (s.complete ((prescale s.opa).sdiv s.opb) false
      (signedTier s.force128 (prescale s.opa) s.opb)) := by
  have hqr := signedDivmod_signedTier s.force128 (prescale s.opa) hb
  simp only [exec, execFxdiv128, operandA, operandB, hqr, unlessZeroDivisor_pos hb]

/-! ### The commands under FORCE128 -/

/-- A divider command with a zero divisor raises DivideByZero with its own word (R601, R605). -/
theorem exec_of_zeroDivisor {i : Instr} {s : State} (hz : zeroDivisor i s) :
    exec i s = .next (s.raise .divideByZero (encode i)) := by
  obtain ⟨hdivider, hzero⟩ := hz
  cases i
  case divu | remu | divs | rems | fxdiv128 => exact if_pos hzero
  case fxdiv64 | fxmod64 => exact if_pos ((lower_toNat _).trans hzero)
  all_goals cases hdivider

/-- A command that does not raise, under another FORCE128: the 128-bit divides give a quotient and a
remainder in which FORCE128 does not stand, and no other result is computed through the tier (R357). -/
theorem exec_force128_of_completes {i : Instr} {s t : State} (f : Bool) (h : exec i s = .next t)
    (hz : ¬zeroDivisor i s) :
    ∃ r : Tier, exec i { s with force128 := f } = .next { t with force128 := f, tier := r } := by
  cases i
  case divu | remu | divs | rems | fxdiv128 =>
    have hb := opb_ne_zero_of_divide rfl (by decide) hz
    simp only [exec_divu, exec_remu, exec_divs, exec_rems, exec_fxdiv128, hb, ne_eq,
      not_false_eq_true] at h ⊢
    cases h
    exact ⟨_, rfl⟩
  case fxdiv64 | fxmod64 =>
    have hb := operandB64_ne_zero_of_divide rfl (by decide) hz
    obtain rfl := Host.Outcome.next.inj ((unlessZeroDivisor_pos hb _ _).symm.trans h)
    exact ⟨_, unlessZeroDivisor_pos hb _ _⟩
  -- the multiplies, whose product is the same in every tier, and the commands without tiers (R358)
  all_goals
    cases h
    exact ⟨_, rfl⟩

/-- Settles O34: a command that raises does so under either FORCE128, and a command that completes writes
the same results. -/
theorem tierNeverChangesAResult : Obligations.TierNeverChangesAResult := by
  intro i s t f h
  by_cases hz : zeroDivisor i s
  · rw [eq_raise_of_exec h hz]
    exact ⟨s.tier, exec_of_zeroDivisor ((zeroDivisor_congr rfl).mp hz)⟩
  · exact exec_force128_of_completes f h hz

end Sys2Proof.Machine
end

section
/-! PROOFS, the shift and logic unit (spec/44_shift_logic.md): the bitwise commands, the shifts, and the
limb-wise reference forms. -/

namespace Sys2Proof.Machine

/-! ### The bitwise commands -/

/-- Settles O42: each bit of a bitwise operation is the operation on the operands' bits. -/
theorem logicCommands : Obligations.LogicCommands := by
  refine ⟨⟨rfl, rfl, rfl, rfl⟩, fun s => ⟨?and, ?or, ?xor, ?not⟩⟩
  case and => exact ⟨s.opa &&& s.opb, rfl, fun k _ => BitVec.getLsbD_and⟩
  case or => exact ⟨s.opa ||| s.opb, rfl, fun k _ => BitVec.getLsbD_or⟩
  case xor => exact ⟨s.opa ^^^ s.opb, rfl, fun k _ => BitVec.getLsbD_xor⟩
  case not =>
    refine ⟨~~~s.opa, rfl, fun k hk => ?_⟩
    rw [BitVec.getLsbD_not, decide_eq_true hk, Bool.true_and]

/-! ### What SLL, SRL and SRA do -/

/-- SLL shifts A left by u(B) mod 128 (R404, R405). -/
theorem exec_sll (s : State) :
    exec .sll s = .next (s.complete (s.opa <<< (s.opb.toNat % 128)) false .none) := by
  rw [← shiftAmount_eq]
  rfl

/-- SRL shifts A right by u(B) mod 128, zeros entering (R404, R406). -/
theorem exec_srl (s : State) :
    exec .srl s = .next (s.complete (s.opa >>> (s.opb.toNat % 128)) false .none) := by
  rw [← shiftAmount_eq]
  rfl

/-- SRA shifts A right by u(B) mod 128, copies of its sign entering (R404, R407). -/
theorem exec_sra (s : State) :
    exec .sra s = .next (s.complete (s.opa.sshiftRight (s.opb.toNat % 128)) false .none) := by
  rw [← shiftAmount_eq]
  rfl

/-- A left shift multiplies by 2^n and wraps (R405). -/
theorem shiftLeft_toNat_eq_mul {w : Nat} (x : BitVec w) (n : Nat) :
    (x <<< n).toNat = x.toNat * 2 ^ n % 2 ^ w := by
  rw [BitVec.toNat_shiftLeft, Nat.shiftLeft_eq]

/-- A logical right shift divides the unsigned value by 2^n (R406). -/
theorem ushiftRight_toNat_eq_div {w : Nat} (x : BitVec w) (n : Nat) :
    (x >>> n).toNat = x.toNat / 2 ^ n := by
  rw [BitVec.toNat_ushiftRight, Nat.shiftRight_eq_div_pow]

/-- An arithmetic right shift divides the signed value by 2^n, rounding down (R407). -/
theorem sshiftRight_toInt_eq_div {w : Nat} (x : BitVec w) (n : Nat) :
    (x.sshiftRight n).toInt = x.toInt / 2 ^ n := by
  rw [BitVec.toInt_sshiftRight, Int.shiftRight_eq_div_pow, Nat.cast_pow, Nat.cast_ofNat]

/-- Settles O43: each shift of A by u(B) mod 128, read as a product or a quotient by a power of two. -/
theorem shiftCommands : Obligations.ShiftCommands := by
  refine ⟨⟨rfl, rfl, rfl⟩, fun s => ⟨?sll, ?srl, ?sra⟩⟩
  case sll => exact ⟨_, exec_sll s, shiftLeft_toNat_eq_mul _ _⟩
  case srl => exact ⟨_, exec_srl s, ushiftRight_toNat_eq_div _ _⟩
  case sra => exact ⟨_, exec_sra s, sshiftRight_toInt_eq_div _ _⟩

/-! ### The limbs of a shifted word -/

theorem getLsbD_lower (v : Word128) {k : Nat} (hk : k < 64) :
    (lower v).getLsbD k = v.getLsbD k := by
  simp [lower, hk]

theorem getLsbD_upper (v : Word128) {k : Nat} (hk : k < 64) :
    (upper v).getLsbD k = v.getLsbD (64 + k) := by
  simp only [upper, BitVec.getLsbD_extractLsb', hk, decide_true, Bool.true_and]

/-- The sign bit of a word is the sign bit of its upper limb (R9). -/
theorem msb_upper (v : Word128) : (upper v).msb = v.msb := by
  rw [BitVec.msb_eq_getLsbD_last, getLsbD_upper v (by decide), BitVec.msb_eq_getLsbD_last]

/-- A word is its upper limb above its lower limb (R9). -/
theorem eq_append_of_limbs {v : Word128} {hi lo : Word64} (hhi : upper v = hi) (hlo : lower v = lo) :
    v = hi ++ lo := by
  apply BitVec.eq_of_toNat_eq
  rw [toNat_append_eq_add, ← hhi, ← hlo, upper_toNat, lower_toNat, Nat.div_add_mod']

/-- Zeros enter a left shift at bit 0. -/
theorem getLsbD_shiftLeft_of_lt {w : Nat} (x : BitVec w) {n k : Nat} (h : k < n) :
    (x <<< n).getLsbD k = false := by
  simp [h]

/-- A left shift moves bit k - n to bit k. -/
theorem getLsbD_shiftLeft_of_le {w : Nat} (x : BitVec w) {n k : Nat} (hk : k < w) (h : n ≤ k) :
    (x <<< n).getLsbD k = x.getLsbD (k - n) := by
  rw [BitVec.getLsbD_shiftLeft, decide_eq_true hk, decide_eq_false (Nat.not_lt.mpr h)]
  rfl

theorem lower_shiftLeft (a : Word128) (n : Nat) : lower (a <<< n) = lower a <<< n := by
  apply BitVec.eq_of_getLsbD_eq
  intro k hk
  rw [getLsbD_lower _ hk]
  rcases Nat.lt_or_ge k n with hlt | hge
  · rw [getLsbD_shiftLeft_of_lt _ hlt, getLsbD_shiftLeft_of_lt _ hlt]
  · rw [getLsbD_shiftLeft_of_le _ (by omega) hge, getLsbD_shiftLeft_of_le _ hk hge,
      getLsbD_lower a (by omega)]

/-- A left shift by at most a limb carries the top bits of the lower limb into the upper. -/
theorem upper_shiftLeft_of_le (a : Word128) {n : Nat} (hn : n ≤ 64) :
    upper (a <<< n) = (upper a <<< n) ||| (lower a >>> (64 - n)) := by
  apply BitVec.eq_of_getLsbD_eq
  intro k hk
  rw [getLsbD_upper _ hk, getLsbD_shiftLeft_of_le _ (by omega) (by omega), BitVec.getLsbD_or,
    BitVec.getLsbD_ushiftRight]
  rcases Nat.lt_or_ge k n with hlt | hge
  · rw [getLsbD_shiftLeft_of_lt _ hlt, getLsbD_lower a (by omega), Bool.false_or]
    congr 1
    omega
  · rw [getLsbD_shiftLeft_of_le _ hk hge, getLsbD_upper a (by omega),
      BitVec.getLsbD_of_ge (lower a) _ (by omega), Bool.or_false]
    congr 1
    omega

/-- A left shift by a limb or more leaves only bits of the lower limb in the upper. -/
theorem upper_shiftLeft_of_ge (a : Word128) {n : Nat} (hn : 64 ≤ n) :
    upper (a <<< n) = lower a <<< (n - 64) := by
  apply BitVec.eq_of_getLsbD_eq
  intro k hk
  rw [getLsbD_upper _ hk]
  rcases Nat.lt_or_ge k (n - 64) with hlt | hge
  · rw [getLsbD_shiftLeft_of_lt _ hlt, getLsbD_shiftLeft_of_lt _ (by omega)]
  · rw [getLsbD_shiftLeft_of_le _ hk hge, getLsbD_shiftLeft_of_le _ (by omega) (by omega),
      getLsbD_lower a (by omega)]
    congr 1
    omega

theorem upper_ushiftRight (a : Word128) (n : Nat) : upper (a >>> n) = upper a >>> n := by
  apply BitVec.eq_of_getLsbD_eq
  intro k hk
  rw [getLsbD_upper _ hk, BitVec.getLsbD_ushiftRight, BitVec.getLsbD_ushiftRight]
  rcases Nat.lt_or_ge (n + k) 64 with hin | hout
  · rw [getLsbD_upper a hin, Nat.add_left_comm]
  · rw [BitVec.getLsbD_of_ge a _ (by omega), BitVec.getLsbD_of_ge (upper a) _ hout]

/-- A right shift by at most a limb carries the bottom bits of the upper limb into the lower. -/
theorem lower_ushiftRight_of_le (a : Word128) {n : Nat} (hn : n ≤ 64) :
    lower (a >>> n) = (lower a >>> n) ||| (upper a <<< (64 - n)) := by
  apply BitVec.eq_of_getLsbD_eq
  intro k hk
  rw [getLsbD_lower _ hk, BitVec.getLsbD_ushiftRight, BitVec.getLsbD_or, BitVec.getLsbD_ushiftRight]
  rcases Nat.lt_or_ge k (64 - n) with hlt | hge
  · rw [getLsbD_shiftLeft_of_lt _ hlt, getLsbD_lower a (by omega), Bool.or_false]
  · rw [getLsbD_shiftLeft_of_le _ hk hge, getLsbD_upper a (by omega),
      BitVec.getLsbD_of_ge (lower a) _ (by omega), Bool.false_or]
    congr 1
    omega

/-- A right shift by a limb or more leaves only bits of the upper limb in the lower. -/
theorem lower_ushiftRight_of_ge (a : Word128) {n : Nat} (hn : 64 ≤ n) :
    lower (a >>> n) = upper a >>> (n - 64) := by
  apply BitVec.eq_of_getLsbD_eq
  intro k hk
  rw [getLsbD_lower _ hk, BitVec.getLsbD_ushiftRight, BitVec.getLsbD_ushiftRight]
  rcases Nat.lt_or_ge (n - 64 + k) 64 with hin | hout
  · rw [getLsbD_upper a hin]
    congr 1
    omega
  · rw [BitVec.getLsbD_of_ge a _ (by omega), BitVec.getLsbD_of_ge (upper a) _ hout]

/-- Below the vacated bits, an arithmetic right shift is the logical one (R407). -/
theorem getLsbD_sshiftRight_of_lt {w : Nat} (x : BitVec w) {n k : Nat} (h : n + k < w) :
    (x.sshiftRight n).getLsbD k = x.getLsbD (n + k) := by
  rw [BitVec.getLsbD_sshiftRight, if_pos h, decide_eq_false (by omega), Bool.not_false, Bool.true_and]

/-- The bits an arithmetic right shift vacates are copies of the sign bit (R407). -/
theorem getLsbD_sshiftRight_of_ge {w : Nat} (x : BitVec w) {n k : Nat} (hk : k < w) (h : w ≤ n + k) :
    (x.sshiftRight n).getLsbD k = x.msb := by
  rw [BitVec.getLsbD_sshiftRight, if_neg (Nat.not_lt.mpr h), decide_eq_false (by omega),
    Bool.not_false, Bool.true_and]

theorem upper_sshiftRight (a : Word128) (n : Nat) :
    upper (a.sshiftRight n) = (upper a).sshiftRight n := by
  apply BitVec.eq_of_getLsbD_eq
  intro k hk
  rw [getLsbD_upper _ hk]
  rcases Nat.lt_or_ge (n + k) 64 with hin | hout
  · rw [getLsbD_sshiftRight_of_lt _ (by omega), getLsbD_sshiftRight_of_lt _ hin,
      getLsbD_upper a hin, Nat.add_left_comm]
  · rw [getLsbD_sshiftRight_of_ge _ (by omega) (by omega), getLsbD_sshiftRight_of_ge _ hk hout,
      msb_upper]

/-- An arithmetic right shift by the whole width or more leaves copies of the sign bit (R407). -/
theorem sshiftRight_eq_signExtend_msb {w : Nat} (x : BitVec w) {n : Nat} (hn : w ≤ n) :
    x.sshiftRight n = (BitVec.ofBool x.msb).signExtend w := by
  apply BitVec.eq_of_getLsbD_eq
  intro k hk
  rw [getLsbD_sshiftRight_of_ge x hk (by omega), BitVec.getLsbD_signExtend, decide_eq_true hk,
    Bool.true_and]
  split
  next h0 => simp [show k = 0 by omega]
  next => simp [BitVec.msb_eq_getLsbD_last]

/-- The vacated bits of an arithmetic right shift by at most a limb lie in the upper limb. -/
theorem lower_sshiftRight_of_le (a : Word128) {n : Nat} (hn : n ≤ 64) :
    lower (a.sshiftRight n) = lower (a >>> n) := by
  apply BitVec.eq_of_getLsbD_eq
  intro k hk
  rw [getLsbD_lower _ hk, getLsbD_lower _ hk, getLsbD_sshiftRight_of_lt _ (by omega),
    BitVec.getLsbD_ushiftRight]

/-- An arithmetic right shift by a limb or more leaves the shifted upper limb in the lower. -/
theorem lower_sshiftRight_of_ge (a : Word128) {n : Nat} (hn : 64 ≤ n) :
    lower (a.sshiftRight n) = (upper a).sshiftRight (n - 64) := by
  apply BitVec.eq_of_getLsbD_eq
  intro k hk
  rw [getLsbD_lower _ hk]
  rcases Nat.lt_or_ge (n - 64 + k) 64 with hin | hout
  · rw [getLsbD_sshiftRight_of_lt _ (by omega), getLsbD_sshiftRight_of_lt _ hin,
      getLsbD_upper a hin]
    congr 1
    omega
  · rw [getLsbD_sshiftRight_of_ge _ (by omega) (by omega), getLsbD_sshiftRight_of_ge _ hk hout,
      msb_upper]

/-! ### The limb-wise reference forms -/

/-- R408's reference left shift is the left shift. -/
theorem shiftLeftByLimbs_eq_shiftLeft (a : Word128) (n : Nat) : shiftLeftByLimbs a n = a <<< n := by
  have hzero (h : 64 ≤ n) : lower (a <<< n) = 0#64 :=
    (lower_shiftLeft a n).trans (BitVec.shiftLeft_eq_zero h)
  unfold shiftLeftByLimbs
  split_ifs with h0 hlt h64
  · rw [h0, BitVec.shiftLeft_zero]
  · exact (eq_append_of_limbs (upper_shiftLeft_of_le a hlt.le) (lower_shiftLeft a n)).symm
  · have hlimb : upper (a <<< n) = lower a := by
      rw [upper_shiftLeft_of_ge a h64.ge, h64, Nat.sub_self, BitVec.shiftLeft_zero]
    exact (eq_append_of_limbs hlimb (hzero h64.ge)).symm
  · have hge : 64 ≤ n := by omega
    exact (eq_append_of_limbs (upper_shiftLeft_of_ge a hge) (hzero hge)).symm

/-- R408's reference logical right shift is the logical right shift. -/
theorem shiftRightByLimbs_eq_ushiftRight (a : Word128) (n : Nat) :
    shiftRightByLimbs a n = a >>> n := by
  have hzero (h : 64 ≤ n) : upper (a >>> n) = 0#64 :=
    (upper_ushiftRight a n).trans (BitVec.ushiftRight_eq_zero h)
  unfold shiftRightByLimbs
  split_ifs with h0 hlt h64
  · rw [h0, BitVec.ushiftRight_zero]
  · exact (eq_append_of_limbs (upper_ushiftRight a n) (lower_ushiftRight_of_le a hlt.le)).symm
  · have hlimb : lower (a >>> n) = upper a := by
      rw [lower_ushiftRight_of_ge a h64.ge, h64, Nat.sub_self, BitVec.ushiftRight_zero]
    exact (eq_append_of_limbs (hzero h64.ge) hlimb).symm
  · have hge : 64 ≤ n := by omega
    exact (eq_append_of_limbs (hzero hge) (lower_ushiftRight_of_ge a hge)).symm

/-- R408's reference arithmetic right shift is the arithmetic right shift. -/
theorem shiftArithByLimbs_eq_sshiftRight (a : Word128) (n : Nat) :
    shiftArithByLimbs a n = a.sshiftRight n := by
  unfold shiftArithByLimbs
  split_ifs with h0 hlt
  · rw [h0, BitVec.sshiftRight_zero]
  · exact (eq_append_of_limbs (upper_sshiftRight a n)
      ((lower_sshiftRight_of_le a hlt.le).trans (lower_ushiftRight_of_le a hlt.le))).symm
  · have hge : 64 ≤ n := by omega
    exact (eq_append_of_limbs
      ((upper_sshiftRight a n).trans (sshiftRight_eq_signExtend_msb (upper a) hge))
      (lower_sshiftRight_of_ge a hge)).symm

/-- Settles O44: each reference form is the bit-vector shift its command runs. -/
theorem limbwiseShiftsGiveTheSameResults : Obligations.LimbwiseShiftsGiveTheSameResults := by
  refine fun s t => ⟨fun h => ?sll, fun h => ?srl, fun h => ?sra⟩
  case sll =>
    obtain rfl := Host.Outcome.next.inj ((exec_sll s).symm.trans h)
    exact (shiftLeftByLimbs_eq_shiftLeft _ _).symm
  case srl =>
    obtain rfl := Host.Outcome.next.inj ((exec_srl s).symm.trans h)
    exact (shiftRightByLimbs_eq_ushiftRight _ _).symm
  case sra =>
    obtain rfl := Host.Outcome.next.inj ((exec_sra s).symm.trans h)
    exact (shiftArithByLimbs_eq_sshiftRight _ _).symm

end Sys2Proof.Machine
end

section
/-! PROOFS, unsigned compare and the widenings (spec/45_compare_convert.md), with NEG and SEXT64 of the
signed wrap layer (spec/46_signed.md). -/

namespace Sys2Proof.Machine

/-! ### The compares -/

/-- A compare whose truth value decides `p` writes 1 or 0 as `p` holds or not, clears C and TIER, and changes
nothing else (R450). -/
theorem completeCompare_decides (s : State) {q : Bool} {p : Prop} (h : q = true ↔ p) :
    ∃ y, completeCompare s q = .next { s with y := y, c := false, tier := .none } ∧
      (p → y.toNat = 1) ∧ (¬p → y.toNat = 0) := by
  refine ⟨boolWord q, rfl, fun hp => ?holds, fun hp => ?fails⟩
  case holds => exact (boolWord_toNat q).trans (if_pos (h.mpr hp))
  case fails => exact (boolWord_toNat q).trans (if_neg (mt h.mp hp))

/-- Equal words are words of equal unsigned value (R450). -/
theorem beq_iff_toNat_eq {w : Nat} (a b : BitVec w) : (a == b) = true ↔ a.toNat = b.toNat :=
  beq_iff_eq.trans BitVec.toNat_inj.symm

/-- Different words are words of different unsigned values (R451). -/
theorem bne_iff_toNat_ne {w : Nat} (a b : BitVec w) : (a != b) = true ↔ a.toNat ≠ b.toNat :=
  bne_iff_ne.trans (not_congr BitVec.toNat_inj.symm)

/-- "ltu or equal" is u(A) ≤ u(B) (R453). -/
theorem ltu_or_beq_iff (a b : Word128) : (ltu a b || a == b) = true ↔ a.toNat ≤ b.toNat := by
  rw [Bool.or_eq_true, ltu_iff, beq_iff_toNat_eq, Nat.le_iff_lt_or_eq]

/-- Settles O40: each compare's truth value decides its order on the unsigned integers. -/
theorem unsignedCompareCommands : Obligations.UnsignedCompareCommands := by
  refine ⟨⟨rfl, rfl, rfl, rfl, rfl, rfl⟩, fun s => ⟨?eq, ?ne, ?ltu, ?leu, ?gtu, ?geu⟩⟩
  case eq => exact completeCompare_decides s (beq_iff_toNat_eq _ _)
  case ne => exact completeCompare_decides s (bne_iff_toNat_ne _ _)
  case ltu => exact completeCompare_decides s (ltu_iff _ _)
  case leu => exact completeCompare_decides s (ltu_or_beq_iff _ _)
  case gtu => exact completeCompare_decides s (ltu_iff _ _)
  case geu =>
    have hgeu : (ltu s.opb s.opa || s.opa == s.opb) = true ↔ s.opb.toNat ≤ s.opa.toNat := by
      rw [Bool.beq_comm, ltu_or_beq_iff]
    exact completeCompare_decides s hgeu

/-! ### The widenings and the negation -/

/-- u(-v) is -u(v), wrapped (R14). -/
theorem toNat_neg_cast {w : Nat} (v : BitVec w) :
    ((-v).toNat : Int) = (-(v.toNat : Int)) % 2 ^ w := by
  rw [← BitVec.zero_sub, toNat_sub_cast, BitVec.toNat_zero, Nat.cast_zero, zero_sub]

/-- R502's way through the magnitude is sign extension, the minimum value included (R11). -/
theorem negate_zext128_magnitude (a : Word64) :
    (if a.msb then negate (zext128 (negate a)) else zext128 a) = sext128 a := by
  split
  next hneg =>
    have hmag : ((zext128 (negate a)).toNat : Int) = -a.toInt := by
      have habs : (negate a).toNat = a.toInt.natAbs := by
        rw [← magnitude_toNat, magnitude, if_pos hneg]
      have hlt : a.toInt < 0 := BitVec.toInt_neg_of_msb_true hneg
      rw [zext128_toNat, habs]
      omega
    calc negate (zext128 (negate a))
      _ = BitVec.ofInt 128 (-((zext128 (negate a)).toNat : Int)) := by
        rw [negate_eq_neg, BitVec.ofInt_neg, BitVec.ofInt_natCast, BitVec.ofNat_toNat,
          BitVec.setWidth_eq]
      _ = BitVec.ofInt 128 a.toInt := by rw [hmag, neg_neg]
      _ = sext128 a := rfl
  next hpos => exact (BitVec.signExtend_eq_setWidth_of_msb_false (eq_false_of_ne_true hpos)).symm

/-- The low limb survives sign extension (R502). -/
theorem lower_sext128 (v : Word64) : lower (sext128 v) = v := by
  refine BitVec.eq_of_getLsbD_eq fun k hk => ?_
  have hk' : k < 128 := by omega
  rw [getLsbD_lower _ hk, sext128, BitVec.getLsbD_signExtend, if_pos hk, decide_eq_true hk',
    Bool.true_and]

/-- ZEXT64 writes the low limb of A, zero-extended (R456). -/
theorem exec_zext64 (s : State) :
    exec .zext64 s = .next (s.complete (zext128 (lower s.opa)) false .none) := rfl

/-- SEXT64 writes the low limb of A, sign-extended (R502). -/
theorem exec_sext64 (s : State) :
    exec .sext64 s = .next (s.complete (sext128 (lower s.opa)) false .none) := by
  rw [← negate_zext128_magnitude]
  rfl

/-- Settles O45: the extensions and the negation of A, read as integers. -/
theorem wideningAndNegateCommands : Obligations.WideningAndNegateCommands := by
  refine ⟨⟨rfl, rfl, rfl⟩, fun s => ⟨?zext64, ?neg, ?sext64⟩⟩
  case zext64 => exact ⟨_, exec_zext64 s, (zext128_toNat _).trans (lower_toNat _)⟩
  case neg => exact ⟨_, exec_neg s, toNat_neg_cast _⟩
  case sext64 =>
    have hlimb : (sext128 (lower s.opa)).toNat % 2 ^ 64 = s.opa.toNat % 2 ^ 64 := by
      rw [← lower_toNat, lower_sext128, lower_toNat]
    exact ⟨_, exec_sext64 s, (sext128_toInt _).trans (lower_toInt _), hlimb⟩

end Sys2Proof.Machine
end

section
/-! PROOFS, the signed wrap layer (spec/46_signed.md): the signed compares, MUL as the signed product, DIVS
and REMS, and the signed laws. -/

namespace Sys2Proof.Machine

/-! ### The signed compares -/

/-- "lts or equal" is s(A) ≤ s(B) (R505). -/
theorem lts_or_beq_iff (a b : Word128) : (lts a b || a == b) = true ↔ a.toInt ≤ b.toInt := by
  rw [Bool.or_eq_true, lts_iff, beq_iff_eq, ← BitVec.toInt_inj, Int.le_iff_lt_or_eq]

/-- Settles O41: each compare's truth value decides its order on the signed integers. -/
theorem signedCompareCommands : Obligations.SignedCompareCommands := by
  refine ⟨⟨rfl, rfl, rfl, rfl⟩, fun s => ⟨?lts, ?les, ?gts, ?ges⟩⟩
  case lts => exact completeCompare_decides s (lts_iff _ _)
  case les => exact completeCompare_decides s (lts_or_beq_iff _ _)
  case gts => exact completeCompare_decides s (lts_iff _ _)
  case ges =>
    have hges : (lts s.opb s.opa || s.opa == s.opb) = true ↔ s.opb.toInt ≤ s.opa.toInt := by
      rw [Bool.beq_comm, lts_or_beq_iff]
    exact completeCompare_decides s hges

/-! ### The signed product -/

/-- A product is that of the magnitudes, negated when exactly one factor is negative (R503). -/
theorem mul_eq_sign_mul_natAbs (a b : Int) :
    a * b = (if a < 0 ↔ b < 0 then 1 else -1) * ((a.natAbs * b.natAbs : Nat) : Int) := by
  rw [← Int.natAbs_mul]
  split
  next hsame =>
    have hnonneg : 0 ≤ a * b := mul_nonneg_iff.mpr (by omega)
    rw [one_mul, Int.natAbs_of_nonneg hnonneg]
  next hdiffer =>
    have hnonpos : a * b ≤ 0 := mul_nonpos_iff.mpr (by omega)
    rw [neg_one_mul, Int.ofNat_natAbs_of_nonpos hnonpos, neg_neg]

/-- Settles O48: the bit-vector product read as a signed integer is the product of the signed values,
wrapped. -/
theorem mulIsTheSignedProduct : Obligations.MulIsTheSignedProduct := by
  intro s t h
  obtain rfl := Host.Outcome.next.inj ((exec_mul s).symm.trans h)
  refine ⟨BitVec.toInt_mul _ _, ?magnitudes⟩
  case magnitudes => rw [← mul_eq_sign_mul_natAbs, State.complete_y, BitVec.toInt_mul]

/-! ### What DIVS and REMS do -/

/-- The mux sees |s(A)| and |s(B)| (R353). -/
theorem signedTier_eq_tierDiv_natAbs (f : Bool) (a b : Word128) :
    signedTier f a b = tierDiv f a.toInt.natAbs b.toInt.natAbs := by
  rw [signedTier, magnitude_toNat, magnitude_toNat]

/-- Settles O52: the bit-vector truncated quotient and remainder, read as signed integers. -/
theorem signedDivideCommands : Obligations.SignedDivideCommands := by
  refine ⟨⟨rfl, rfl⟩, fun s => ⟨fun hb => ⟨?divs, ?rems⟩, fun hb => ⟨?divsZero, ?remsZero⟩⟩⟩
  case divs =>
    have hdivs := exec_divs hb
    rw [signedTier_eq_tierDiv_natAbs] at hdivs
    exact ⟨_, _, hdivs, BitVec.toInt_sdiv _ _, BitVec.toInt_srem _ _⟩
  case rems =>
    have hrems := exec_rems hb
    rw [signedTier_eq_tierDiv_natAbs] at hrems
    exact ⟨_, hrems, BitVec.toInt_srem _ _⟩
  case divsZero => exact exec_of_zeroDivisor ⟨rfl, hb⟩
  case remsZero => exact exec_of_zeroDivisor ⟨rfl, hb⟩

/-! ### The signed laws -/

/-- The signed division identity on words: the wrap of MIN128 / -1 is undone by the wrap of the product. -/
theorem sdiv_mul_add_srem (a b : Word128) : a.sdiv b * b + a.srem b = a := by
  apply BitVec.eq_of_toInt_eq
  rw [BitVec.toInt_add, BitVec.toInt_mul, BitVec.toInt_sdiv, BitVec.toInt_srem, Int.bmod_mul_bmod,
    Int.bmod_add_bmod, Int.tdiv_mul_add_tmod, BitVec.toInt_bmod_cancel]

/-- The signed remainder is smaller than the divisor in magnitude (R512). -/
theorem natAbs_srem_lt (a : Word128) {b : Word128} (hb : b.toNat ≠ 0) :
    (a.srem b).toInt.natAbs < b.toInt.natAbs := by
  have hpos := magnitude_toNat_ne_zero hb
  rw [magnitude_toNat] at hpos
  rw [BitVec.toInt_srem, Int.natAbs_tmod]
  exact Nat.mod_lt _ (Nat.pos_of_ne_zero hpos)

/-- The signed remainder is zero or has the dividend's sign (R512). -/
theorem srem_eq_zero_or_sign (a b : Word128) :
    (a.srem b).toInt = 0 ∨ ((a.srem b).toInt < 0 ↔ a.toInt < 0) := by
  rw [BitVec.toInt_srem, tmod_eq_natAbs_mod]
  split <;> omega

/-- Settles O53: the first law is the adder's, the others are those of the truncated division. -/
theorem signedDivisionLaws : Obligations.SignedDivisionLaws := by
  refine ⟨fun s n t hneg hadd => ?negation, fun s t m r hb hdiv hmul hadd => ?division⟩
  case negation =>
    obtain ⟨_, _, inverse, _, _⟩ := adderLaws s n
    exact inverse hneg t hadd
  case division =>
    obtain rfl := Host.Outcome.next.inj ((exec_divs hb).symm.trans hdiv)
    obtain rfl := Host.Outcome.next.inj ((exec_mul _).symm.trans hmul)
    obtain rfl := eq_of_exec_add hadd
    exact ⟨sdiv_mul_add_srem s.opa s.opb, natAbs_srem_lt s.opa hb, srem_eq_zero_or_sign s.opa s.opb⟩

end Sys2Proof.Machine
end

section
/-! PROOFS, the fixed-point scale unit (spec/47_fixedpoint.md): what each FInt and FBig command writes, as
bit-vector operations between a prescale and a rescale, and the fixed-point laws. -/

namespace Sys2Proof.Machine

/-! ### bv_N of the signed results (R10) -/

/-- bv_N(s(a) + s(b)) is the bit-vector sum. -/
theorem ofInt_toInt_add {w : Nat} (a b : BitVec w) : BitVec.ofInt w (a.toInt + b.toInt) = a + b := by
  rw [BitVec.ofInt_add, BitVec.ofInt_toInt, BitVec.ofInt_toInt]

/-- bv_N(-s(a)) is the bit-vector negation. -/
theorem ofInt_neg_toInt {w : Nat} (a : BitVec w) : BitVec.ofInt w (-a.toInt) = -a := by
  rw [BitVec.ofInt_neg, BitVec.ofInt_toInt]

/-- bv_N(s(a) - s(b)) is the bit-vector difference. -/
theorem ofInt_toInt_sub {w : Nat} (a b : BitVec w) : BitVec.ofInt w (a.toInt - b.toInt) = a - b := by
  rw [Int.sub_eq_add_neg, BitVec.ofInt_add, ofInt_neg_toInt, BitVec.ofInt_toInt, BitVec.sub_eq_add_neg]

/-- bv_N(s(a) · s(b)) is the bit-vector product. -/
theorem ofInt_toInt_mul {w : Nat} (a b : BitVec w) : BitVec.ofInt w (a.toInt * b.toInt) = a * b := by
  rw [BitVec.ofInt_mul, BitVec.ofInt_toInt, BitVec.ofInt_toInt]

/-- bv_N of the quotient toward zero is the bit-vector signed quotient, MIN / -1 included. -/
theorem ofInt_toInt_tdiv {w : Nat} (a b : BitVec w) :
    BitVec.ofInt w (a.toInt.tdiv b.toInt) = a.sdiv b := by
  apply BitVec.eq_of_toInt_eq
  rw [BitVec.toInt_ofInt, BitVec.toInt_sdiv]

/-- bv_N of the remainder with the dividend's sign is the bit-vector signed remainder. -/
theorem ofInt_toInt_tmod {w : Nat} (a b : BitVec w) :
    BitVec.ofInt w (a.toInt.tmod b.toInt) = a.srem b := by
  rw [← BitVec.toInt_srem, BitVec.ofInt_toInt]

/-! ### What the FInt commands do -/

/-- FXADD64 writes the sum of the low limbs (R551). -/
theorem exec_fxadd64 (s : State) :
    exec .fxadd64 s = .next (s.completeFInt (lower s.opa + lower s.opb)) := by
  rw [← ofInt_toInt_add]
  rfl

/-- FXSUB64 writes the difference of the low limbs (R552). -/
theorem exec_fxsub64 (s : State) :
    exec .fxsub64 s = .next (s.completeFInt (lower s.opa - lower s.opb)) := by
  rw [← ofInt_toInt_sub]
  rfl

/-- FXMUL64 writes the rescaled product of the low limbs (R553). -/
theorem exec_fxmul64 (s : State) :
    exec .fxmul64 s = .next (s.completeFInt (rescale (lower s.opa * lower s.opb))) := by
  rw [← ofInt_toInt_mul]
  rfl

/-- FXNEG64 writes the negated low limb of A (R556). -/
theorem exec_fxneg64 (s : State) : exec .fxneg64 s = .next (s.completeFInt (-lower s.opa)) := by
  rw [← ofInt_neg_toInt]
  rfl

/-- FXFROMINT64 writes the prescaled low limb of A (R557). -/
theorem exec_fxfromint64 (s : State) :
    exec .fxfromint64 s = .next (s.completeFInt (prescale (lower s.opa))) := rfl

/-- FXDIV64 writes the truncated quotient of the prescaled dividend (R554). -/
theorem exec_fxdiv64 {s : State} (hb : (lower s.opb).toNat ≠ 0) :
    exec .fxdiv64 s = .next (s.completeFInt ((prescale (lower s.opa)).sdiv (lower s.opb))) := by
  rw [← ofInt_toInt_tdiv]
  exact unlessZeroDivisor_pos hb _ _

/-- FXMOD64 writes the truncated division's remainder of the raws (R555). -/
theorem exec_fxmod64 {s : State} (hb : (lower s.opb).toNat ≠ 0) :
    exec .fxmod64 s = .next (s.completeFInt ((lower s.opa).srem (lower s.opb))) := by
  rw [← ofInt_toInt_tmod]
  exact unlessZeroDivisor_pos hb _ _

/-- An FInt command that ends with the raw `r` writes Y of `r`'s signed value, clears C and TIER, and
changes nothing else (R550). -/
theorem completeFInt_gives {i : Instr} {s : State} {r : Word64} {v : Int}
    (h : exec i s = .next (s.completeFInt r)) (hv : r.toInt = v) :
    ∃ y, exec i s = .next { s with y := y, c := false, tier := .none } ∧ y.toInt = v :=
  ⟨sext128 r, h, (sext128_toInt r).trans hv⟩

/-- Settles O54: sum, difference, negation and prescale of the low limbs, read as signed integers. -/
theorem fIntAddCommands : Obligations.FIntAddCommands := by
  refine ⟨⟨rfl, rfl, rfl, rfl⟩, fun s => ?_⟩
  simp only [← lower_toInt]
  refine ⟨?add, ?sub, ?neg, ?fromint⟩
  case add => exact completeFInt_gives (exec_fxadd64 s) (BitVec.toInt_add _ _)
  case sub => exact completeFInt_gives (exec_fxsub64 s) BitVec.toInt_sub
  case neg => exact completeFInt_gives (exec_fxneg64 s) BitVec.toInt_neg
  case fromint => exact completeFInt_gives (exec_fxfromint64 s) (prescale_toInt _)

/-- Settles O55: the rescale floors the product that the limb multiply has wrapped. -/
theorem fIntMultiplyCommand : Obligations.FIntMultiplyCommand := by
  refine ⟨rfl, fun s => completeFInt_gives (exec_fxmul64 s) ?_⟩
  rw [rescale_toInt, BitVec.toInt_mul, lower_toInt, lower_toInt]

/-- Settles O56: quotient and remainder of the signed limbs; a zero low limb of B is the divisor 0 whatever
the upper limb holds. -/
theorem fIntDivideCommands : Obligations.FIntDivideCommands := by
  refine ⟨⟨rfl, rfl⟩, fun s => ⟨fun hb => ?divides, fun hb => ⟨?divRaises, ?modRaises⟩⟩⟩
  case divides =>
    rw [← lower_toNat] at hb
    refine ⟨completeFInt_gives (exec_fxdiv64 hb) ?div, completeFInt_gives (exec_fxmod64 hb) ?mod⟩
    case div => rw [BitVec.toInt_sdiv, prescale_toInt, lower_toInt, lower_toInt]
    case mod => rw [BitVec.toInt_srem, lower_toInt, lower_toInt]
  case divRaises => exact exec_of_zeroDivisor ⟨rfl, hb⟩
  case modRaises => exact exec_of_zeroDivisor ⟨rfl, hb⟩

/-! ### What the FBig commands do -/

/-- FXMUL128 writes the rescaled bit-vector product, and the tier of the magnitudes (R560, R354). -/
theorem exec_fxmul128 (s : State) :
    exec .fxmul128 s = .next (s.complete (rescale (s.opa * s.opb)) false
      (tierMul s.force128 s.opa.toInt.natAbs s.opb.toInt.natAbs)) := by
  rw [BitVec.mul_def, ← magnitude_toNat, ← magnitude_toNat]
  rfl

/-- FXFROMINT128 writes the prescaled A (R562). -/
theorem exec_fxfromint128 (s : State) :
    exec .fxfromint128 s = .next (s.complete (prescale s.opa) false .none) := rfl

/-- Settles O57: the bit-vector product is that of the signed values, wrapped, and the rescale floors it. -/
theorem fBigMultiplyCommands : Obligations.FBigMultiplyCommands := by
  refine ⟨⟨rfl, rfl⟩, fun s => ⟨?mul, ?fromint⟩⟩
  case mul =>
    refine ⟨_, exec_fxmul128 s, ?_⟩
    rw [rescale_toInt, BitVec.toInt_mul]
  case fromint => exact ⟨_, exec_fxfromint128 s, prescale_toInt _⟩

/-- Settles O58: the signed quotient of the prescaled dividend; the mux sees the magnitude of that dividend,
not of A. -/
theorem fBigDivideCommand : Obligations.FBigDivideCommand := by
  refine ⟨rfl, fun s => ⟨fun hb => ?divides, fun hb => ?raises⟩⟩
  case divides =>
    have hdiv := exec_fxdiv128 hb
    rw [signedTier_eq_tierDiv_natAbs, prescale_toInt] at hdiv
    refine ⟨_, hdiv, ?_⟩
    rw [BitVec.toInt_sdiv, prescale_toInt]
  case raises => exact exec_of_zeroDivisor ⟨rfl, hb⟩

/-! ### The fixed-point laws -/

/-- Raw 0 divided by any raw is raw 0 (R563). -/
theorem prescale_zero_sdiv {w : Nat} (b : BitVec w) : (prescale 0#w).sdiv b = 0#w := by
  rw [prescale, BitVec.zero_shiftLeft, BitVec.zero_sdiv]

/-- In FInt, raw 1 times raw 3 rescales to 0, and the division cannot recover the lost fraction (R563). -/
theorem fint_one_mul_three_div_three {s : State} (ha : s.opa.toNat % 2 ^ 64 = 1)
    (hb : s.opb.toNat % 2 ^ 64 = 3) :
    ∃ t t', exec .fxmul64 s = .next t ∧ exec .fxdiv64 { s with opa := t.y } = .next t' ∧
      t.y.toNat = 0 ∧ t'.y.toNat = 0 := by
  have hproduct : sext128 (rescale (lower s.opa * lower s.opb)) = 0#128 := by
    have ha1 : lower s.opa = 1#64 := BitVec.eq_of_toNat_eq ((lower_toNat _).trans ha)
    have hb3 : lower s.opb = 3#64 := BitVec.eq_of_toNat_eq ((lower_toNat _).trans hb)
    rw [ha1, hb3]
    decide
  have hb0 : (lower s.opb).toNat ≠ 0 := by
    rw [lower_toNat, hb]
    decide
  refine ⟨_, _, exec_fxmul64 s, exec_fxdiv64 hb0, congrArg BitVec.toNat hproduct, ?_⟩
  rw [State.completeFInt_y, State.completeFInt_y, hproduct]
  exact congrArg (fun r => (sext128 r).toNat) (prescale_zero_sdiv (lower s.opb))

/-- In FBig, raw 1 times raw 3 rescales to 0, and the division cannot recover the lost fraction (R563). -/
theorem fbig_one_mul_three_div_three {s : State} (ha : s.opa.toNat = 1) (hb : s.opb.toNat = 3) :
    ∃ t t', exec .fxmul128 s = .next t ∧ exec .fxdiv128 { s with opa := t.y } = .next t' ∧
      t.y.toNat = 0 ∧ t'.y.toNat = 0 := by
  have hproduct : rescale (s.opa * s.opb) = 0#128 := by
    have ha1 : s.opa = 1#128 := BitVec.eq_of_toNat_eq ha
    have hb3 : s.opb = 3#128 := BitVec.eq_of_toNat_eq hb
    rw [ha1, hb3]
    decide
  have hb0 : s.opb.toNat ≠ 0 := by omega
  refine ⟨_, _, exec_fxmul128 s, exec_fxdiv128 hb0, congrArg BitVec.toNat hproduct, ?_⟩
  rw [State.complete_y, State.complete_y, hproduct]
  exact congrArg BitVec.toNat (prescale_zero_sdiv s.opb)

/-- Settles O59: the additive laws are the group's, the low limb surviving the sign extension between the
two commands; the rescale of 3 is 0 in both formats. -/
theorem fixedPointLaws : Obligations.FixedPointLaws := by
  refine ⟨fun s t t' hadd hsub => ?fint, fun s t t' hadd hsub => ?fbig, fun s ha hb => ?fintLoss,
    fun s ha hb => ?fbigLoss⟩
  case fint =>
    obtain rfl := Host.Outcome.next.inj ((exec_fxadd64 s).symm.trans hadd)
    obtain rfl := Host.Outcome.next.inj ((exec_fxsub64 _).symm.trans hsub)
    rw [← lower_toNat, ← lower_toNat, State.completeFInt_y, State.completeFInt_y, lower_sext128,
      lower_sext128, BitVec.add_sub_cancel]
  case fbig =>
    obtain rfl := eq_of_exec_add hadd
    obtain rfl := eq_of_exec_sub hsub
    exact BitVec.add_sub_cancel s.opa s.opb
  case fintLoss => exact fint_one_mul_three_div_three ha hb
  case fbigLoss => exact fbig_one_mul_three_div_three ha hb

end Sys2Proof.Machine
end

section
/-! PROOFS, exceptions and the fault state (spec/60_exceptions.md): which CMD writes raise, what a raise
writes, what STATUS shows after it, and what a step can do to the fault record. -/

namespace Sys2Proof.Machine

/-! ### Commands that raise and commands that complete -/

/-- Settles O29. -/
theorem zeroDivisorRaisesAndWritesNothingElse :
    Obligations.ZeroDivisorRaisesAndWritesNothingElse :=
  fun _ _ hz => exec_of_zeroDivisor hz

/-- Settles O9: with a zero divisor the command raises, otherwise it writes its results back. -/
theorem everyCommandHasANextState : Obligations.EveryCommandHasANextState := by
  intro i s
  by_cases hz : zeroDivisor i s
  · exact ⟨_, exec_of_zeroDivisor hz, fun _ => State.raise_faulted .., fun hn => absurd hz hn⟩
  · obtain ⟨u, _, hexec, _, _⟩ := exec_completes hz
    exact ⟨_, hexec, fun hz' => absurd hz' hz, fun _ => rfl⟩

/-! ### Issuing a word -/

/-- In the fault state a CMD write is ignored (R607). -/
theorem issue_of_faulted {s : State} (w : Word32) (hs : s.faulted = true) : issue w s = .next s :=
  if_pos hs

/-- Issued outside the fault state, a divider's word with a zero divisor raises DivideByZero (R601, R604). -/
theorem issue_zeroDivisor {w : Word32} {i : Instr} {s : State} (hs : s.faulted = false)
    (hd : decode w = .ok i) (hz : zeroDivisor i s) :
    issue w s = .next (s.raise .divideByZero (encode i)) := by
  rw [issue, if_neg (by simp [hs]), hd]
  exact exec_of_zeroDivisor hz

/-- Issued outside the fault state, a word raises when it is illegal or a divider's with a zero divisor, and
for no other reason (R603). -/
theorem issue_raises_iff {w : Word32} {s t : State} (hs : s.faulted = false)
    (h : issue w s = .next t) :
    t.faulted = true ↔ legalWord w = false ∨ ∃ i, decode w = .ok i ∧ zeroDivisor i s := by
  constructor
  · intro ht
    rcases issue_cases w s with ⟨hf, _⟩ | ⟨_, e, hd, _⟩ | ⟨_, i, hd, hrun⟩
    · exact absurd (hs.symm.trans hf) Bool.false_ne_true
    · exact .inl (legalWord_of_decode_error hd)
    · rcases exec_cases (hrun.symm.trans h) with ⟨hz, _⟩ | ⟨_, y, z, c, r, rfl⟩
      · exact .inr ⟨i, hd, hz⟩
      · exact absurd (hs.symm.trans ht) Bool.false_ne_true
  · rintro (hw | ⟨i, hd, hz⟩)
    · obtain rfl := Host.Outcome.next.inj ((issue_illegal hw hs).symm.trans h)
      exact State.raise_faulted ..
    · obtain rfl := Host.Outcome.next.inj ((issue_zeroDivisor hs hd hz).symm.trans h)
      exact State.raise_faulted ..

/-- A CMD write always has a next state (R666). -/
theorem issue_exists_next (w : Word32) (s : State) : ∃ t, issue w s = .next t := by
  rcases issue_cases w s with ⟨_, hi⟩ | ⟨_, _, _, hi⟩ | ⟨_, i, _, hi⟩
  · exact ⟨_, hi⟩
  · exact ⟨_, hi⟩
  · obtain ⟨t, ht, _, _⟩ := everyCommandHasANextState i s
    exact ⟨t, hi.trans ht⟩

/-! ### CMD writes at the port -/

/-- A CMD write of an illegal word at the head of the inputs raises IllegalOperation (R602). -/
theorem step_cmd_illegal {s : State} {d : Word64} {rest : List PortEvent}
    (hi : s.inputs = .access (.write 0x40#8 4 d) :: rest) (hr : s.rst = false)
    (hs : s.faulted = false) (hw : legalWord (d.setWidth 32) = false) :
    step s = .next
      (((s.withInputs rest).respond .written).raise .illegalOperation (d.setWidth 32)) :=
  (step_cmd hi hr).trans (issue_illegal hw hs)

/-- A CMD write of a divider command with a zero divisor at the head of the inputs raises DivideByZero
(R601). -/
theorem step_cmd_zeroDivisor {s : State} {d : Word64} {rest : List PortEvent} {i : Instr}
    (hi : s.inputs = .access (.write 0x40#8 4 d) :: rest) (hr : s.rst = false)
    (hs : s.faulted = false) (hd : decode (d.setWidth 32) = .ok i) (hz : zeroDivisor i s) :
    step s = .next (((s.withInputs rest).respond .written).raise .divideByZero (encode i)) :=
  (step_cmd hi hr).trans (issue_zeroDivisor hs hd hz)

/-- Settles O5. -/
theorem illegalWordRaises : Obligations.IllegalWordRaises :=
  fun _ _ _ hi hr hs hw => step_cmd_illegal hi hr hs hw

/-- Settles O6. -/
theorem faultedUnitIgnoresCommands : Obligations.FaultedUnitIgnoresCommands := by
  intro s d rest hi hr hs
  exact (step_cmd hi hr).trans (issue_of_faulted _ hs)

/-! ### STATUS after a raise -/

/-- Bit 1 of STATUS is FAULTED (R59). -/
theorem statusWord_getLsbD_one (s : State) : (statusWord s).getLsbD 1 = s.faulted := by
  rw [statusWord, BitVec.getLsbD_append, BitVec.getLsbD_append]
  simp

/-- Bits 7:4 of STATUS are CAUSE (R59). -/
theorem statusWord_cause (s : State) :
    (statusWord s).toNat / 16 % 16 = (causeCode s.cause).toNat := by
  have hc := s.c.toNat_le
  have hf := s.faulted.toNat_le
  have ht := (tierCode s.tier).isLt
  have hcause := (causeCode s.cause).isLt
  rw [statusWord_toNat]
  omega

/-- A STATUS read that follows a raise shows FAULTED and the cause (R606). -/
theorem step_statusRead_of_raise {s : State} {rest : List PortEvent} (e : Cause) (cmd : Word32)
    (hi : s.inputs = .access (.read 0x44#8 4) :: rest) (hr : s.rst = false) :
    ∃ u w, step (s.raise e cmd) = .next u ∧ u.response = .data32 w ∧
      w.getLsbD 1 = true ∧ w.toNat / 16 % 16 = (causeCode e).toNat :=
  ⟨_, statusWord (s.raise e cmd), step_read hi hr rfl, rfl, statusWord_getLsbD_one _,
    statusWord_cause _⟩

/-- Settles O25: each of the two CMD writes is a raise, and the read takes its word after it. -/
theorem statusReadAfterFaultShowsTheCause : Obligations.StatusReadAfterFaultShowsTheCause := by
  intro s d rest hr hs hi
  refine ⟨fun hw => ?illegal, fun i hd hz => ?zero⟩
  case illegal =>
    obtain ⟨u, w, hread⟩ := step_statusRead_of_raise .illegalOperation (d.setWidth 32)
      (s := (s.withInputs _).respond .written) rfl hr
    exact ⟨_, u, w, step_cmd_illegal hi hr hs hw, hread⟩
  case zero =>
    obtain ⟨u, w, hread⟩ := step_statusRead_of_raise .divideByZero (encode i)
      (s := (s.withInputs _).respond .written) rfl hr
    exact ⟨_, u, w, step_cmd_zeroDivisor hi hr hs hd hz, hread⟩

/-! ### The fault record over a step -/

/-- What a step can do to the fault record: keep it, reset the unit, or what a CMD write does. -/
theorem step_fault_record_cases {s t : State} (h : step s = .next t) :
    (t.faulted = s.faulted ∧ t.cause = s.cause ∧ t.faultcmd = s.faultcmd) ∨
    (t.unit = State.reset ∧ ∃ e rest, s.inputs = e :: rest ∧ resetInput s e) ∨
    (s.rst = false ∧ ∃ d rest, s.inputs = .access (.write 0x40#8 4 d) :: rest ∧
      issue (d.setWidth 32) ((s.withInputs rest).respond .written) = .next t) := by
  rcases step_unit_cases h with ⟨hu, _⟩ | hcmd | hreset | ⟨_, rest, b, rfl⟩ |
    ⟨_, off, n, d, rest, _, _, rfl⟩
  · have hf : t.unit.faulted = s.unit.faulted := by rw [hu]
    have hc : t.unit.cause = s.unit.cause := by rw [hu]
    have hw : t.unit.faultcmd = s.unit.faultcmd := by rw [hu]
    exact .inl ⟨hf, hc, hw⟩
  · exact .inr (.inr hcmd)
  · exact .inr (.inl hreset)
  · exact .inl ⟨rfl, rfl, rfl⟩
  · obtain ⟨a, b, hstore⟩ := storeAccepted_eq ((s.withInputs rest).respond .written) off n d
    rw [hstore]
    exact .inl ⟨rfl, rfl, rfl⟩

/-- Settles O7: in the fault state a CMD write keeps the record too, so only a reset is left. -/
theorem faultStateIsLeftOnlyByReset : Obligations.FaultStateIsLeftOnlyByReset := by
  intro s t hs h
  rcases step_fault_record_cases h with ⟨hf, hkept⟩ | ⟨hu, e, rest, hi, hreset⟩ |
    ⟨_, d, rest, _, hissue⟩
  · exact .inl ⟨hf.trans hs, hkept⟩
  · refine .inr ⟨hu, e, rest, hi, ?_⟩
    rcases hreset with he | he | ⟨he, _⟩ | ⟨d, he, _, hbit⟩
    · exact .inl he
    · exact .inr (.inl he)
    · exact .inr (.inr (.inl he))
    · exact .inr (.inr (.inr ⟨d, he, hbit⟩))
  · have taken : ((s.withInputs rest).respond .written).faulted = true := hs
    obtain rfl := Host.Outcome.next.inj ((issue_of_faulted _ taken).symm.trans hissue)
    exact .inl ⟨hs, rfl, rfl⟩

/-- Settles O30: only a CMD write can set FAULTED, and `issue_raises_iff` says which ones do. -/
theorem onlyIllegalWordsAndZeroDivisorsRaise : Obligations.OnlyIllegalWordsAndZeroDivisorsRaise := by
  intro s t hs h
  have taken (rest : List PortEvent) :
      ((s.withInputs rest).respond .written).faulted = false := hs
  constructor
  · intro ht
    rcases step_fault_record_cases h with ⟨hf, _⟩ | ⟨hu, _⟩ | ⟨hr, d, rest, hi, hissue⟩
    · exact absurd (hs.symm.trans (hf.symm.trans ht)) Bool.false_ne_true
    · have hf : t.unit.faulted = false := by rw [hu]; rfl
      exact absurd (hf.symm.trans ht) Bool.false_ne_true
    · exact ⟨hr, d, rest, hi, (issue_raises_iff (taken rest) hissue).mp ht⟩
  · rintro ⟨hr, d, rest, hi, hraises⟩
    rw [step_cmd hi hr] at h
    exact (issue_raises_iff (taken rest) h).mpr hraises

end Sys2Proof.Machine
end

section
/-! PROOFS, the resets and the absence of hangs (spec/70_reset_and_hazards.md): the RST input, the soft reset,
the command cut off by RST, and the next state of every step. -/

namespace Sys2Proof.Machine

/-! ### The RST input -/

/-- An access offered while RST is asserted is not accepted (R650). -/
theorem step_access_under_rst {s : State} {a : Access} {rest : List PortEvent}
    (hi : s.inputs = .access a :: rest) (hr : s.rst = true) :
    step s = .next ((s.withInputs rest).respond .notAccepted) := by
  rw [step_input hi]
  exact if_pos hr

/-- The release of an asserted RST leaves the unit reset (R650). -/
theorem step_rstRelease {s : State} {rest : List PortEvent} (hi : s.inputs = .rstRelease :: rest)
    (hr : s.rst = true) : step s = .next ((s.withInputs rest).resetUnit.setRst false) := by
  rw [step_input hi]
  exact if_pos hr

/-- RST asserted during a CMD write abandons it (R653). -/
theorem step_rstAssertDuring {s : State} {w : Word32} {rest : List PortEvent}
    (hi : s.inputs = .rstAssertDuring w :: rest) (hr : s.rst = false) :
    step s = .next (((s.withInputs rest).resetUnit.setRst true).respond .abandoned) := by
  have hr' : (s.withInputs rest).rst = false := hr
  rw [step_input hi, performEvent, hr']
  rfl

/-- Settles O14. -/
theorem resetInputHoldsThePort : Obligations.ResetInputHoldsThePort := by
  refine ⟨fun s rest hi => ?assert, fun s a rest hi hr => ?access, fun s rest hi hr => ?release⟩
  case assert => exact ⟨_, step_input hi, rfl, rfl, rfl⟩
  case access => exact step_access_under_rst hi hr
  case release => exact ⟨_, step_rstRelease hi hr, rfl, rfl, rfl⟩

/-- Settles O15. -/
theorem resetAbandonsTheCommandInFlight : Obligations.ResetAbandonsTheCommandInFlight :=
  fun _ _ _ hi hr => ⟨_, step_rstAssertDuring hi hr, rfl, rfl, rfl, rfl⟩

/-! ### The soft reset -/

/-- A CTRL write with SRST set resets the unit (R64, R652). -/
theorem writeCtrl_of_srst {s : State} {w : Word32} (hw : w.getLsbD 1 = true) :
    writeCtrl s w = s.resetUnit := if_pos hw

/-- Settles O13. -/
theorem softResetSetsEverything : Obligations.SoftResetSetsEverything := by
  intro s d rest hi hr hbit
  rw [step_ctrl hi hr, writeCtrl_of_srst (by simpa using hbit)]
  rfl

/-! ### No step hangs -/

/-- Settles O8: every case of a step answers a next state, a CMD write by `issue_exists_next`. -/
theorem everyStepHasANextState : Obligations.EveryStepHasANextState := by
  intro s
  rcases step_cases s with ⟨_, hstep⟩ | ⟨e, rest, _,
    ⟨_, _, _, hstep⟩ | ⟨_, _, _, _, _, hstep⟩ | ⟨_, _, _, _, _, _, hstep⟩ |
    ⟨_, _, _, _, _, _, hstep⟩ | ⟨d, _, _, hcmd⟩ | ⟨_, _, _, _, hstep⟩ | ⟨_, _, _, _, hstep⟩ |
    ⟨_, _, _, _, _, _, _, _, hstep⟩ | ⟨_, hstep⟩ | ⟨_, _, _, hstep⟩ | ⟨_, _, hstep⟩ |
    ⟨_, _, hstep⟩⟩
  iterate 5 · exact ⟨_, hstep⟩
  · rw [hcmd]
    exact issue_exists_next _ _
  all_goals exact ⟨_, hstep⟩

end Sys2Proof.Machine
end
